-- ==== Sys2Proof/Word.lean ====
section
/-! DEFINITION. The word types of the ECO32 (spec 00_scope.md R8): bit 0 is the least significant bit. -/

namespace Sys2Proof

/-- A unit of 8 bits (R8). -/
abbrev Byte := BitVec 8

/-- A unit of 16 bits (R8). -/
abbrev Half := BitVec 16

/-- A unit of 32 bits (R8); registers, virtual and physical addresses are words (R6). -/
abbrev Word := BitVec 32

/-- A general-purpose register number, a 5-bit field of which every value is legal (R24, R123). -/
abbrev Reg := BitVec 5

/-- A page number or page frame number: the upper 20 bits of an address (R14, R76). -/
abbrev Page := BitVec 20

end Sys2Proof
end

