-- ==== Sys2Proof/Syntax.lean ====
section
/-! DEFINITION. The 61 instructions of the ECO32 (spec 30_encoding.md R130), one constructor for each row of the opcode
table. Operands stand in the order of the manual's operand lists: destination (or data) register first (R123, D19).
Ignored bits (R124) are no part of an instruction. -/

namespace Sys2Proof

/-- R130. `r`, `x`, `y`, `dest` are register numbers, a 16-bit `y` an immediate, `offset` a signed count of words, `z` a
special-purpose register number (R123). LDHI's x field is ignored (R124, R127). -/
inductive Instr where
  /-- ADD, opcode 0x00, format RRR, R164. -/
  | add (r x y : Reg)
  /-- ADDI, opcode 0x01, format RRI, R165. -/
  | addi (r x : Reg) (y : Half)
  /-- SUB, opcode 0x02, format RRR, R166. -/
  | sub (r x y : Reg)
  /-- SUBI, opcode 0x03, format RRI, R167. -/
  | subi (r x : Reg) (y : Half)
  /-- MUL, opcode 0x04, format RRR, R168. -/
  | mul (r x y : Reg)
  /-- MULI, opcode 0x05, format RRI, R169. -/
  | muli (r x : Reg) (y : Half)
  /-- MULU, opcode 0x06, format RRR, R170. -/
  | mulu (r x y : Reg)
  /-- MULUI, opcode 0x07, format RRI, R171. -/
  | mului (r x : Reg) (y : Half)
  /-- DIV, opcode 0x08, format RRR, R172. -/
  | div (r x y : Reg)
  /-- DIVI, opcode 0x09, format RRI, R173. -/
  | divi (r x : Reg) (y : Half)
  /-- DIVU, opcode 0x0A, format RRR, R174. -/
  | divu (r x y : Reg)
  /-- DIVUI, opcode 0x0B, format RRI, R175. -/
  | divui (r x : Reg) (y : Half)
  /-- REM, opcode 0x0C, format RRR, R176. -/
  | rem (r x y : Reg)
  /-- REMI, opcode 0x0D, format RRI, R177. -/
  | remi (r x : Reg) (y : Half)
  /-- REMU, opcode 0x0E, format RRR, R178. -/
  | remu (r x y : Reg)
  /-- REMUI, opcode 0x0F, format RRI, R179. -/
  | remui (r x : Reg) (y : Half)
  /-- AND, opcode 0x10, format RRR, R180. -/
  | and (r x y : Reg)
  /-- ANDI, opcode 0x11, format RRI, R181. -/
  | andi (r x : Reg) (y : Half)
  /-- OR, opcode 0x12, format RRR, R182. -/
  | or (r x y : Reg)
  /-- ORI, opcode 0x13, format RRI, R183. -/
  | ori (r x : Reg) (y : Half)
  /-- XOR, opcode 0x14, format RRR, R184. -/
  | xor (r x y : Reg)
  /-- XORI, opcode 0x15, format RRI, R185. -/
  | xori (r x : Reg) (y : Half)
  /-- XNOR, opcode 0x16, format RRR, R186. -/
  | xnor (r x y : Reg)
  /-- XNORI, opcode 0x17, format RRI, R187. -/
  | xnori (r x : Reg) (y : Half)
  /-- SLL, opcode 0x18, format RRR, R188. -/
  | sll (r x y : Reg)
  /-- SLLI, opcode 0x19, format RRI, R189. -/
  | slli (r x : Reg) (y : Half)
  /-- SLR, opcode 0x1A, format RRR, R190. -/
  | slr (r x y : Reg)
  /-- SLRI, opcode 0x1B, format RRI, R191. -/
  | slri (r x : Reg) (y : Half)
  /-- SAR, opcode 0x1C, format RRR, R192. -/
  | sar (r x y : Reg)
  /-- SARI, opcode 0x1D, format RRI, R193. -/
  | sari (r x : Reg) (y : Half)
  /-- LDHI, opcode 0x1F, format RRI, R194. -/
  | ldhi (r : Reg) (y : Half)
  /-- BEQ, opcode 0x20, format BR, R203. -/
  | beq (x y : Reg) (offset : Half)
  /-- BNE, opcode 0x21, format BR, R204. -/
  | bne (x y : Reg) (offset : Half)
  /-- BLE, opcode 0x22, format BR, R205. -/
  | ble (x y : Reg) (offset : Half)
  /-- BLEU, opcode 0x23, format BR, R206. -/
  | bleu (x y : Reg) (offset : Half)
  /-- BLT, opcode 0x24, format BR, R207. -/
  | blt (x y : Reg) (offset : Half)
  /-- BLTU, opcode 0x25, format BR, R208. -/
  | bltu (x y : Reg) (offset : Half)
  /-- BGE, opcode 0x26, format BR, R209. -/
  | bge (x y : Reg) (offset : Half)
  /-- BGEU, opcode 0x27, format BR, R210. -/
  | bgeu (x y : Reg) (offset : Half)
  /-- BGT, opcode 0x28, format BR, R211. -/
  | bgt (x y : Reg) (offset : Half)
  /-- BGTU, opcode 0x29, format BR, R212. -/
  | bgtu (x y : Reg) (offset : Half)
  /-- J, opcode 0x2A, format J, R215. -/
  | j (offset : BitVec 26)
  /-- JR, opcode 0x2B, format JR, R216. -/
  | jr (dest : Reg)
  /-- JAL, opcode 0x2C, format J, R213. -/
  | jal (offset : BitVec 26)
  /-- JALR, opcode 0x2D, format JR, R214. -/
  | jalr (dest : Reg)
  /-- TRAP, opcode 0x2E, format N, R251. -/
  | trap
  /-- RFX, opcode 0x2F, format N, R252. -/
  | rfx
  /-- LDW, opcode 0x30, format RRI, R233. -/
  | ldw (r x : Reg) (y : Half)
  /-- LDH, opcode 0x31, format RRI, R234. -/
  | ldh (r x : Reg) (y : Half)
  /-- LDHU, opcode 0x32, format RRI, R235. -/
  | ldhu (r x : Reg) (y : Half)
  /-- LDB, opcode 0x33, format RRI, R236. -/
  | ldb (r x : Reg) (y : Half)
  /-- LDBU, opcode 0x34, format RRI, R237. -/
  | ldbu (r x : Reg) (y : Half)
  /-- STW, opcode 0x35, format RRI, R238. -/
  | stw (r x : Reg) (y : Half)
  /-- STH, opcode 0x36, format RRI, R239. -/
  | sth (r x : Reg) (y : Half)
  /-- STB, opcode 0x37, format RRI, R240. -/
  | stb (r x : Reg) (y : Half)
  /-- MVFS, opcode 0x38, format SR, R253. -/
  | mvfs (r : Reg) (z : Half)
  /-- MVTS, opcode 0x39, format SR, R254. -/
  | mvts (r : Reg) (z : Half)
  /-- TBS, opcode 0x3A, format N, R255. -/
  | tbs
  /-- TBWR, opcode 0x3B, format N, R256. -/
  | tbwr
  /-- TBRI, opcode 0x3C, format N, R257. -/
  | tbri
  /-- TBWI, opcode 0x3D, format N, R258. -/
  | tbwi
deriving DecidableEq, Repr

/-- Why the decoder gives no instruction. -/
inductive Reject where
  /-- The opcode denotes no instruction (R131). -/
  | unassignedOpcode (op : BitVec 6)
  /-- Fewer than the four bytes of an instruction word (R120). -/
  | tooFewBytes
deriving DecidableEq, Repr

end Sys2Proof
end

