-- ==== Sys2Proof/Decode.lean ====
section
/-! DEFINITION. Decoding (spec 30_encoding.md R133), total on every word and every list of bytes, and the encoder, its
inverse with ignored bits 0. -/

namespace Sys2Proof

/-- Bits 31..26, which alone select the operation (R121). -/
def opcodeOf (w : Word) : BitVec 6 := w.extractLsb' 26 6

/-- Bits 25..21: x, or dest (R122). -/
def fieldA (w : Word) : Reg := w.extractLsb' 21 5

/-- Bits 20..16: y of RRR and BR, r of RRI and SR (R122). -/
def fieldB (w : Word) : Reg := w.extractLsb' 16 5

/-- Bits 15..11: r of RRR (R122). -/
def fieldC (w : Word) : Reg := w.extractLsb' 11 5

/-- Bits 15..0: the immediate, offset or z (R122). -/
def imm16 (w : Word) : Half := w.extractLsb' 0 16

/-- Bits 25..0: the offset of J and JAL (R122). -/
def imm26 (w : Word) : BitVec 26 := w.extractLsb' 0 26

/-- R133, over the opcode map of R130; the opcodes 0x1E, 0x3E and 0x3F denote no instruction (R131). No bit outside the
fields of the format is read (R124). -/
def decodeWord (w : Word) : Except Reject Instr :=
  match (opcodeOf w).toNat with
  | 0x00 => .ok (.add (fieldC w) (fieldA w) (fieldB w))
  | 0x01 => .ok (.addi (fieldB w) (fieldA w) (imm16 w))
  | 0x02 => .ok (.sub (fieldC w) (fieldA w) (fieldB w))
  | 0x03 => .ok (.subi (fieldB w) (fieldA w) (imm16 w))
  | 0x04 => .ok (.mul (fieldC w) (fieldA w) (fieldB w))
  | 0x05 => .ok (.muli (fieldB w) (fieldA w) (imm16 w))
  | 0x06 => .ok (.mulu (fieldC w) (fieldA w) (fieldB w))
  | 0x07 => .ok (.mului (fieldB w) (fieldA w) (imm16 w))
  | 0x08 => .ok (.div (fieldC w) (fieldA w) (fieldB w))
  | 0x09 => .ok (.divi (fieldB w) (fieldA w) (imm16 w))
  | 0x0A => .ok (.divu (fieldC w) (fieldA w) (fieldB w))
  | 0x0B => .ok (.divui (fieldB w) (fieldA w) (imm16 w))
  | 0x0C => .ok (.rem (fieldC w) (fieldA w) (fieldB w))
  | 0x0D => .ok (.remi (fieldB w) (fieldA w) (imm16 w))
  | 0x0E => .ok (.remu (fieldC w) (fieldA w) (fieldB w))
  | 0x0F => .ok (.remui (fieldB w) (fieldA w) (imm16 w))
  | 0x10 => .ok (.and (fieldC w) (fieldA w) (fieldB w))
  | 0x11 => .ok (.andi (fieldB w) (fieldA w) (imm16 w))
  | 0x12 => .ok (.or (fieldC w) (fieldA w) (fieldB w))
  | 0x13 => .ok (.ori (fieldB w) (fieldA w) (imm16 w))
  | 0x14 => .ok (.xor (fieldC w) (fieldA w) (fieldB w))
  | 0x15 => .ok (.xori (fieldB w) (fieldA w) (imm16 w))
  | 0x16 => .ok (.xnor (fieldC w) (fieldA w) (fieldB w))
  | 0x17 => .ok (.xnori (fieldB w) (fieldA w) (imm16 w))
  | 0x18 => .ok (.sll (fieldC w) (fieldA w) (fieldB w))
  | 0x19 => .ok (.slli (fieldB w) (fieldA w) (imm16 w))
  | 0x1A => .ok (.slr (fieldC w) (fieldA w) (fieldB w))
  | 0x1B => .ok (.slri (fieldB w) (fieldA w) (imm16 w))
  | 0x1C => .ok (.sar (fieldC w) (fieldA w) (fieldB w))
  | 0x1D => .ok (.sari (fieldB w) (fieldA w) (imm16 w))
  | 0x1F => .ok (.ldhi (fieldB w) (imm16 w))
  | 0x20 => .ok (.beq (fieldA w) (fieldB w) (imm16 w))
  | 0x21 => .ok (.bne (fieldA w) (fieldB w) (imm16 w))
  | 0x22 => .ok (.ble (fieldA w) (fieldB w) (imm16 w))
  | 0x23 => .ok (.bleu (fieldA w) (fieldB w) (imm16 w))
  | 0x24 => .ok (.blt (fieldA w) (fieldB w) (imm16 w))
  | 0x25 => .ok (.bltu (fieldA w) (fieldB w) (imm16 w))
  | 0x26 => .ok (.bge (fieldA w) (fieldB w) (imm16 w))
  | 0x27 => .ok (.bgeu (fieldA w) (fieldB w) (imm16 w))
  | 0x28 => .ok (.bgt (fieldA w) (fieldB w) (imm16 w))
  | 0x29 => .ok (.bgtu (fieldA w) (fieldB w) (imm16 w))
  | 0x2A => .ok (.j (imm26 w))
  | 0x2B => .ok (.jr (fieldA w))
  | 0x2C => .ok (.jal (imm26 w))
  | 0x2D => .ok (.jalr (fieldA w))
  | 0x2E => .ok .trap
  | 0x2F => .ok .rfx
  | 0x30 => .ok (.ldw (fieldB w) (fieldA w) (imm16 w))
  | 0x31 => .ok (.ldh (fieldB w) (fieldA w) (imm16 w))
  | 0x32 => .ok (.ldhu (fieldB w) (fieldA w) (imm16 w))
  | 0x33 => .ok (.ldb (fieldB w) (fieldA w) (imm16 w))
  | 0x34 => .ok (.ldbu (fieldB w) (fieldA w) (imm16 w))
  | 0x35 => .ok (.stw (fieldB w) (fieldA w) (imm16 w))
  | 0x36 => .ok (.sth (fieldB w) (fieldA w) (imm16 w))
  | 0x37 => .ok (.stb (fieldB w) (fieldA w) (imm16 w))
  | 0x38 => .ok (.mvfs (fieldB w) (imm16 w))
  | 0x39 => .ok (.mvts (fieldB w) (imm16 w))
  | 0x3A => .ok .tbs
  | 0x3B => .ok .tbwr
  | 0x3C => .ok .tbri
  | 0x3D => .ok .tbwi
  | _ => .error (.unassignedOpcode (opcodeOf w))

/-- The word of four bytes in big-endian arrangement (R9, R66, R120). -/
def wordOfBytes (a b c d : Byte) : Word := a ++ b ++ c ++ d

/-- The four bytes of a word, the one at the lowest address first (R9, R66). -/
def bytesOfWord (w : Word) : List Byte :=
  [w.extractLsb' 24 8, w.extractLsb' 16 8, w.extractLsb' 8 8, w.extractLsb' 0 8]

/-- The instruction at the head of a list of bytes, and the bytes after it (R120). -/
def decode : List Byte → Except Reject (Instr × List Byte)
  | a :: b :: c :: d :: rest =>
    match decodeWord (wordOfBytes a b c d) with
    | .ok i => .ok (i, rest)
    | .error e => .error e
  | _ => .error .tooFewBytes

/-- RRR: op<<26 | x<<21 | y<<16 | r<<11 (R133). -/
def encRRR (op : BitVec 6) (r x y : Reg) : Word := op ++ x ++ y ++ r ++ 0#11

/-- RRI: op<<26 | x<<21 | r<<16 | y (R133). -/
def encRRI (op : BitVec 6) (r x : Reg) (y : Half) : Word := op ++ x ++ r ++ y

/-- BR: op<<26 | x<<21 | y<<16 | offset (R133). -/
def encBR (op : BitVec 6) (x y : Reg) (offset : Half) : Word := op ++ x ++ y ++ offset

/-- J: op<<26 | offset (R133). -/
def encJ (op : BitVec 6) (offset : BitVec 26) : Word := op ++ offset

/-- JR: op<<26 | dest<<21 (R133). -/
def encJR (op : BitVec 6) (dest : Reg) : Word := op ++ dest ++ 0#21

/-- N: op<<26 (R133). -/
def encN (op : BitVec 6) : Word := op ++ 0#26

/-- SR: op<<26 | r<<16 | z (R133). -/
def encSR (op : BitVec 6) (r : Reg) (z : Half) : Word := op ++ 0#5 ++ r ++ z

/-- The word of an instruction, ignored bits 0 (R133). -/
def encode (i : Instr) : Word :=
  match i with
  | .add r x y => encRRR 0x00 r x y
  | .addi r x y => encRRI 0x01 r x y
  | .sub r x y => encRRR 0x02 r x y
  | .subi r x y => encRRI 0x03 r x y
  | .mul r x y => encRRR 0x04 r x y
  | .muli r x y => encRRI 0x05 r x y
  | .mulu r x y => encRRR 0x06 r x y
  | .mului r x y => encRRI 0x07 r x y
  | .div r x y => encRRR 0x08 r x y
  | .divi r x y => encRRI 0x09 r x y
  | .divu r x y => encRRR 0x0A r x y
  | .divui r x y => encRRI 0x0B r x y
  | .rem r x y => encRRR 0x0C r x y
  | .remi r x y => encRRI 0x0D r x y
  | .remu r x y => encRRR 0x0E r x y
  | .remui r x y => encRRI 0x0F r x y
  | .and r x y => encRRR 0x10 r x y
  | .andi r x y => encRRI 0x11 r x y
  | .or r x y => encRRR 0x12 r x y
  | .ori r x y => encRRI 0x13 r x y
  | .xor r x y => encRRR 0x14 r x y
  | .xori r x y => encRRI 0x15 r x y
  | .xnor r x y => encRRR 0x16 r x y
  | .xnori r x y => encRRI 0x17 r x y
  | .sll r x y => encRRR 0x18 r x y
  | .slli r x y => encRRI 0x19 r x y
  | .slr r x y => encRRR 0x1A r x y
  | .slri r x y => encRRI 0x1B r x y
  | .sar r x y => encRRR 0x1C r x y
  | .sari r x y => encRRI 0x1D r x y
  | .ldhi r y => encRRI 0x1F r 0 y
  | .beq x y offset => encBR 0x20 x y offset
  | .bne x y offset => encBR 0x21 x y offset
  | .ble x y offset => encBR 0x22 x y offset
  | .bleu x y offset => encBR 0x23 x y offset
  | .blt x y offset => encBR 0x24 x y offset
  | .bltu x y offset => encBR 0x25 x y offset
  | .bge x y offset => encBR 0x26 x y offset
  | .bgeu x y offset => encBR 0x27 x y offset
  | .bgt x y offset => encBR 0x28 x y offset
  | .bgtu x y offset => encBR 0x29 x y offset
  | .j offset => encJ 0x2A offset
  | .jr dest => encJR 0x2B dest
  | .jal offset => encJ 0x2C offset
  | .jalr dest => encJR 0x2D dest
  | .trap => encN 0x2E
  | .rfx => encN 0x2F
  | .ldw r x y => encRRI 0x30 r x y
  | .ldh r x y => encRRI 0x31 r x y
  | .ldhu r x y => encRRI 0x32 r x y
  | .ldb r x y => encRRI 0x33 r x y
  | .ldbu r x y => encRRI 0x34 r x y
  | .stw r x y => encRRI 0x35 r x y
  | .sth r x y => encRRI 0x36 r x y
  | .stb r x y => encRRI 0x37 r x y
  | .mvfs r z => encSR 0x38 r z
  | .mvts r z => encSR 0x39 r z
  | .tbs => encN 0x3A
  | .tbwr => encN 0x3B
  | .tbri => encN 0x3C
  | .tbwi => encN 0x3D

/-- The bytes of an instruction as they lie in memory (R66, R120). -/
def encodeBytes (i : Instr) : List Byte := bytesOfWord (encode i)

/-- The bits of a word that decoding reads, by its opcode (R122, R124): the others are ignored. -/
def careMask (op : BitVec 6) : Word :=
  if op.toNat < 0x1E then
    if op.toNat % 2 = 0 then 0xFFFFF800 else 0xFFFFFFFF
  else if op.toNat = 0x1F then 0xFC1FFFFF
  else if op.toNat = 0x2B ∨ op.toNat = 0x2D then 0xFFE00000
  else if op.toNat = 0x2E ∨ op.toNat = 0x2F then 0xFC000000
  else if op.toNat = 0x38 ∨ op.toNat = 0x39 then 0xFC1FFFFF
  else if 0x3A ≤ op.toNat ∧ op.toNat ≤ 0x3D then 0xFC000000
  else 0xFFFFFFFF

/-- The instruction the decoder reads from a table row's bits: every ECO32 instruction is one word, laid out in memory in
big-endian order (R120). -/
def decodeTableWord (nbits w : Nat) : Option Instr :=
  match decode (bytesOfWord (BitVec.ofNat 32 (w % 2 ^ nbits))) with
  | .ok (i, _) => some i
  | .error _ => none

end Sys2Proof
end

