-- ==== Sys2Proof/Config.lean ====
section
/-! DEFINITION. What an implementation or a platform fixes (spec 00_scope.md R7, 10_state.md R45), and the free values
(the spec's `draw`, 00_scope.md R12). -/

namespace Sys2Proof

/-- The parameter sdiv_rounding (R7, D1): how signed DIV and REM round. Log 12. -/
inductive SdivRounding where
  | trunc
  | floor
deriving DecidableEq, Repr, Inhabited

/-- What the ROM controller does with a write cycle (R99, D9). Log 16. -/
inductive RomWrite where
  /-- The cycle completes and changes nothing: the spec's choice for the demonstration platform. -/
  | ignored
  /-- The cycle goes unanswered. -/
  | unanswered
deriving DecidableEq, Repr, Inhabited

/-- The sub-parameter dev_holes (D23): what an unlisted word of a device's window does. Log 17. -/
inductive DevHoles where
  /-- The device decodes its local address in full; an unlisted word is a hole of the map. -/
  | timeout
  /-- The device ignores the upper local address lines; its registers repeat through the window. -/
  | mirror
deriving DecidableEq, Repr, Inhabited

/-- What stands behind a window of the peripheral range (R64, D20): a device of the demonstration project, or another one
of which nothing is known. Log 39. -/
inductive DeviceKind where
  | timer
  | display
  | keyboard
  | terminal
  | disk
  | other
deriving DecidableEq, Repr, Inhabited

/-- The physical addresses at which one device is selected (R64, R94, R105): `size` bytes from `base` on, a multiple of 4
(log 39). -/
structure Window where
  base : Nat
  size : Nat
  kind : DeviceKind
deriving DecidableEq, Repr, Inhabited

/-- A signal of a device that a platform can connect to an interrupt line (R320, R321); the Bool is true for terminal 2. -/
inductive IrqSource where
  | sender (second : Bool)
  | receiver (second : Bool)
  | keyboard
  | disk
  | timer
deriving DecidableEq, Repr, Inhabited

/-- The parameters of R7 that a step can observe. They are configuration (R45): no step changes them. Log 7. -/
structure Config where
  /-- RAM answers at physical 0 up to this many bytes (R62, R64). That the subrange which answers is the first one, without a
  mirror, is a DESIGN CHOICE for every platform but the demonstration one (unsafe, log 35). -/
  ramBytes : Nat
  /-- ROM answers at physical 0x20000000 up to this many bytes (R62, R64). As for RAM: DESIGN CHOICE (unsafe, log 35). -/
  romBytes : Nat
  romWrite : RomWrite
  /-- Which devices the platform has, and where (R64, D20). Log 39. -/
  windows : List Window
  devHoles : DevHoles
  /-- The total number of sectors on the disk, read in the capacity register (R340). -/
  diskCapacity : Word
  /-- Which signals of the devices are connected to which interrupt lines (R301, R320). Log 29. -/
  irqMap : List (Nat × IrqSource)
  /-- The interrupt lines that something outside the device list drives (R301). Log 29. -/
  otherIrq : BitVec 16
  sdivRounding : SdivRounding
deriving DecidableEq, Repr, Inhabited

/-- The demonstration project (R105, R320, R322): 32 MB of RAM, 256 kB of ROM, all five devices, unused lines never
asserted. DESIGN CHOICE (unsafe, log 7): dev_holes and the disk's capacity, which the spec leaves open. -/
def Config.demo : Config where
  ramBytes := 0x2000000
  romBytes := 0x40000
  romWrite := .ignored
  windows :=
    [{ base := 0x30000000, size := 0x100000, kind := .timer },
     { base := 0x30100000, size := 0x100000, kind := .display },
     { base := 0x30200000, size := 0x100000, kind := .keyboard },
     { base := 0x30300000, size := 0x100000, kind := .terminal },
     { base := 0x30400000, size := 0x100000, kind := .disk }]
  devHoles := .timeout
  diskCapacity := 0
  irqMap :=
    [(0, .sender false), (1, .receiver false), (2, .sender true), (3, .receiver true), (4, .keyboard), (8, .disk),
     (14, .timer)]
  otherIrq := 0
  sdivRounding := .trunc

/-- The spec's `draw(w)` (R12): a w-bit value the sources do not determine. The second argument is the counter of
State that tells one draw from another. Log 37. -/
opaque Config.draw (w n : Nat) : BitVec w

/-- Undetermined contents of a storage, as (address, value) pairs. Log 37. -/
opaque Config.drawCells (w n : Nat) : List (Nat × BitVec w)

/-- The parameter tlb_random (R7, D12): the n-th number of the hardware random-number generator (R40). Log 10. -/
opaque Config.tlbRandom (n : Nat) : Nat

/-- The parameter irq_select (R7, D3): which member of a list of admitted interrupts is taken. Log 11. -/
opaque Config.irqSelect (n : Nat) (admitted : List Nat) : Nat

/-- What a byte of RAM or ROM that nothing has written reads as. DESIGN CHOICE (unsafe, log 2): the spec gives none. -/
def Config.unlistedByte : Byte := 0

end Sys2Proof
end

