-- ==== Sys2Proof/Machine/Memory.lean ====
section
/-! DEFINITION. Storage as a list of (address, value) pairs in one canonical form, and its big-endian views
(spec 20_memory.md R62, R66, R67). -/

namespace Sys2Proof.Machine

/-- A storage of w-bit units: pairs of an address and a value. -/
abbrev Cells (w : Nat) := List (Nat × BitVec w)

/-- The bytes of RAM and ROM by physical address (R62, R66). -/
abbrev Memory := List Host.Cell

/-- What an address that is not listed reads as: for a byte, Config.unlistedByte. Log 2, log 6. -/
def blank (w : Nat) : BitVec w := Config.unlistedByte.setWidth w

/-- The value at one address. -/
def Cells.get {w : Nat} (m : Cells w) (a : Nat) : BitVec w :=
  match m with
  | [] => blank w
  | (b, v) :: rest => if b = a then v else Cells.get rest a

/-- The storage with address a unlisted. -/
def Cells.remove {w : Nat} (m : Cells w) (a : Nat) : Cells w :=
  match m with
  | [] => []
  | (b, v) :: rest => if b = a then rest else if a < b then (b, v) :: rest else (b, v) :: Cells.remove rest a

/-- The storage with value v listed at address a. -/
def Cells.insert {w : Nat} (m : Cells w) (a : Nat) (v : BitVec w) : Cells w :=
  match m with
  | [] => [(a, v)]
  | (b, u) :: rest =>
    if a < b then (a, v) :: (b, u) :: rest
    else if b = a then (a, v) :: rest
    else (b, u) :: Cells.insert rest a v

/-- Write one unit, keeping the canonical form: a value that an unlisted address reads as is not listed. -/
def Cells.put {w : Nat} (m : Cells w) (a : Nat) (v : BitVec w) : Cells w :=
  if v = blank w then m.remove a else m.insert a v

/-- Every address of the list is above lo, addresses strictly rise, and no entry equals the blank. -/
def Cells.wfAbove {w : Nat} (lo : Nat) (m : Cells w) : Bool :=
  match m with
  | [] => true
  | (b, v) :: rest => decide (lo ≤ b) && decide (v ≠ blank w) && Cells.wfAbove (b + 1) rest

/-- The canonical form of a storage. -/
def Cells.wf {w : Nat} (m : Cells w) : Bool := Cells.wfAbove 0 m

/-- Every listed address satisfies p. -/
def Cells.within {w : Nat} (p : Nat → Bool) (m : Cells w) : Bool := m.all fun c => p c.1

/-- The canonical storage with the given contents, as far as they lie in the addresses that p admits. -/
def Cells.ofContents {w : Nat} (p : Nat → Bool) (l : List (Nat × BitVec w)) : Cells w :=
  (l.filter fun c => p c.1).foldr (fun c m => Cells.put m c.1 c.2) []

/-- The canonical form of memory. -/
def Memory.wf (m : Memory) : Bool := Cells.wf m

/-- One byte of memory. -/
def Memory.byte (m : Memory) (a : Nat) : Byte := Cells.get m a

/-- Memory with one byte written. -/
def Memory.setByte (m : Memory) (a : Nat) (b : Byte) : Memory := Cells.put m a b

/-- The byte-addressed half-word at a (R66). -/
def Cells.half (m : Cells 8) (a : Nat) : Half := m.get a ++ m.get (a + 1)

/-- The byte-addressed word at a (R66). -/
def Cells.word (m : Cells 8) (a : Nat) : Word :=
  m.get a ++ m.get (a + 1) ++ m.get (a + 2) ++ m.get (a + 3)

/-- The storage with the two bytes of a half-word written big-endian (R66, R67). -/
def Cells.putHalf (m : Cells 8) (a : Nat) (v : Half) : Cells 8 :=
  (m.put a (v.extractLsb' 8 8)).put (a + 1) (v.extractLsb' 0 8)

/-- The storage with the four bytes of a word written big-endian (R66, R67). -/
def Cells.putWord (m : Cells 8) (a : Nat) (v : Word) : Cells 8 :=
  (((m.put a (v.extractLsb' 24 8)).put (a + 1) (v.extractLsb' 16 8)).put (a + 2) (v.extractLsb' 8 8)).put (a + 3)
    (v.extractLsb' 0 8)

/-- The storage with the bytes of a list written from address a on. -/
def Cells.putBytes (m : Cells 8) (a : Nat) (bytes : List Byte) : Cells 8 :=
  match bytes with
  | [] => m
  | b :: rest => Cells.putBytes (m.put a b) (a + 1) rest

/-- The bytes of n addresses from a on. -/
def Cells.bytes (m : Cells 8) (a n : Nat) : List Byte := (List.range n).map fun k => m.get (a + k)

end Sys2Proof.Machine
end

