-- ==== Sys2Proof/Machine/DeviceState.lean ====
section
/-! DEFINITION. The state of the demonstration project's devices (spec 60_exceptions.md R330 to R341). -/

namespace Sys2Proof.Machine

/-- The timer (R330, R331). No register reads the counter; 32 bits is a DESIGN CHOICE (unsafe, log 25). -/
structure Timer where
  /-- Control bit 1, Interrupt Enable. -/
  enable : Bool
  /-- Control bit 0, Wrap-Around. -/
  wrap : Bool
  divisor : Word
  /-- Counts clock cycles backwards (R330). -/
  counter : Word
deriving DecidableEq, Repr, Inhabited

/-- The keyboard (R333, R334). -/
structure Keyboard where
  enable : Bool
  ready : Bool
  data : Byte
deriving DecidableEq, Repr, Inhabited

/-- One serial line: a receiver and a sender (R335, R336). -/
structure Terminal where
  rcvEnable : Bool
  rcvReady : Bool
  rcvData : Byte
  sndEnable : Bool
  sndReady : Bool
  /-- The characters handed to the line so far, the last at the end: the model's record of output (log 31). -/
  sent : List Byte
deriving DecidableEq, Repr, Inhabited

/-- The disk controller and the disk (R337 to R341). -/
structure Disk where
  dmarq : Bool
  init : Bool
  fin : Bool
  err : Bool
  wr : Bool
  ien : Bool
  /-- An action is in progress (R339); no register shows it. -/
  busy : Bool
  /-- A 1 was written to START during the action in progress (R338); what follows from it is not stated (log 26). -/
  again : Bool
  count : Word
  sector : Word
  /-- The data buffer by byte, 0 to 4095 (R341, R68). -/
  buffer : Cells 8
  /-- The sectors of the disk by byte, 512 a sector (R340). -/
  medium : Cells 8
deriving DecidableEq, Repr, Inhabited

/-- All devices of the demonstration project. -/
structure Devices where
  timer : Timer
  /-- The 128 x 32 cells of display memory, bits 15..0 of each word: attributes and character (R332). -/
  display : Cells 16
  keyboard : Keyboard
  term1 : Terminal
  term2 : Terminal
  disk : Disk
deriving DecidableEq, Repr, Inhabited

/-- A word-sized register or storage location of a device (R331 to R341). The Bool is true for terminal 2. -/
inductive DevReg where
  | timerControl
  | timerDivisor
  | displayCell (k : Nat)
  | keyboardControl
  | keyboardData
  | receiverControl (second : Bool)
  | receiverData (second : Bool)
  | senderControl (second : Bool)
  | senderData (second : Bool)
  | diskControl
  | diskCount
  | diskSector
  | diskCapacity
  | diskBuffer (k : Nat)
  /-- A word of a device of which nothing is known (R64, log 39). -/
  | other
deriving DecidableEq, Repr, Inhabited

/-- What a device, or the world outside the machine, does on its own (R321, R365, R115). Log 19. -/
inductive Event where
  /-- So many clock cycles pass for the timer (R330, R365). -/
  | clock (cycles : Nat)
  /-- A scan code arrives from the keyboard (R333). -/
  | key (code : Byte)
  /-- A character arrives on a serial line (R336). -/
  | received (second : Bool) (char : Byte)
  /-- A sender can accept its next character (R335). -/
  | senderReady (second : Bool)
  /-- The disk controller has finished initialization (R338). -/
  | diskInitialized
  /-- The disk controller finishes the action in progress, with an error or without (R339). -/
  | diskFinished (failed : Bool)
  /-- The disk's DMA request line changes (R338). -/
  | diskDmarq (level : Bool)
  /-- The level of the interrupt lines that no device drives (R301). Log 29. -/
  | irqLines (level : BitVec 16)
deriving DecidableEq, Repr

/-- One entry of the script of inputs: what the environment does in one turn of the execution loop. Log 19, log 20. -/
structure TurnInput where
  /-- The reset line is asserted throughout the turn (R350). -/
  reset : Bool
  /-- Events before the instruction is fetched. -/
  before : List Event
  /-- Events after the instruction and before the interrupt test. -/
  after : List Event
deriving DecidableEq, Repr

/-- Nothing happens in the turn. -/
def TurnInput.quiet : TurnInput := { reset := false, before := [], after := [] }

/-- Every storage of the devices is canonical and lies inside its device: display cells 0..4095 (R332), buffer bytes
0..4095 (R341). -/
def Devices.wf (d : Devices) : Bool :=
  d.display.wf && d.display.within (· < 4096) && d.disk.buffer.wf && d.disk.buffer.within (· < 4096) && d.disk.medium.wf

end Sys2Proof.Machine
end

