-- ==== Sys2Proof/Machine/State.lean ====
section
/-! DEFINITION. The state of the machine (spec 10_state.md R20 for the core; 20_memory.md R62 and 60_exceptions.md section 9
for memory and devices), the causes of exceptions, and reset. -/

namespace Sys2Proof.Machine

/-- The processor status word by its fields (R28). -/
structure Psw where
  /-- Bits 31..28, "(ignored)" (R34). -/
  ignored : BitVec 4
  /-- Bit 27, V: 0 = service routines in ROM, 1 = in RAM (R29). -/
  v : Bool
  /-- Bit 26, U_C: current privilege mode, 0 = Kernel, 1 = User (R30). -/
  uc : Bool
  up : Bool
  uo : Bool
  /-- Bit 23, I_C: current global interrupt enable (R31). -/
  ic : Bool
  ip : Bool
  io : Bool
  /-- Bits 20..16 (R33). -/
  eid : BitVec 5
  /-- Bits 15..0 (R32). -/
  ien : BitVec 16
deriving DecidableEq, Repr, Inhabited

/-- TLB Index, special register 1, by its parts (R35). -/
structure TlbIndex where
  /-- Bit 31: 1 after a TBS that found nothing. -/
  miss : Bool
  /-- Bits 30..5. -/
  ignored : BitVec 26
  /-- Bits 4..0, the index that TBRI and TBWI use. -/
  index : BitVec 5
deriving DecidableEq, Repr, Inhabited

/-- TLB Entry High, special register 2 (R37). -/
structure TlbHigh where
  page : Page
  /-- Bits 11..0. -/
  ignored : BitVec 12
deriving DecidableEq, Repr, Inhabited

/-- TLB Entry Low, special register 3 (R38). -/
structure TlbLow where
  frame : Page
  /-- Bits 11..2. -/
  ignored : BitVec 10
  /-- Bit 1: 1 = the page is writable. -/
  write : Bool
  /-- Bit 0. -/
  valid : Bool
deriving DecidableEq, Repr, Inhabited

/-- One TLB entry (R36). -/
structure TlbEntry where
  page : Page
  frame : Page
  write : Bool
  valid : Bool
deriving DecidableEq, Repr, Inhabited

/-- The size of one access (R97). -/
inductive Width where
  | byte
  | half
  | word
deriving DecidableEq, Repr

/-- One cycle of the SoC bus as the core drives it (R90 to R93). Log 30. -/
structure BusCycle where
  /-- bus_wr. -/
  write : Bool
  /-- bus_size. -/
  size : Width
  /-- bus_addr. -/
  addr : Word
  /-- bus_data_out of a write cycle, the bits above the size 0; 0 in a read cycle. -/
  data : Word
  /-- A device was selected; a cycle that is not answered ends in a timeout (R95). -/
  answered : Bool
deriving DecidableEq, Repr

/-- The cause of an exception (R282). An address fault carries the faulting virtual address (R80). -/
inductive Cause where
  | interrupt (line : BitVec 4)
  | busTimeout
  | illegalInstruction
  | privilegedInstruction
  | divisionByZero
  | trap
  | tlbMiss (va : Word)
  | tlbWrite (va : Word)
  | tlbInvalid (va : Word)
  | illegalAddress (va : Word)
  | privilegedAddress (va : Word)
deriving DecidableEq, Repr

/-- The whole state of the machine; INVENTORY.md lists each field with its rule and reset value. -/
structure State where
  /-- x[1] .. x[31]; x[0] has no storage (R21). -/
  regs : Vector Word 31
  pc : Word
  psw : Psw
  tlbIndex : TlbIndex
  tlbHigh : TlbHigh
  tlbLow : TlbLow
  tlbBad : Word
  tlb : Vector TlbEntry 32
  /-- The random-number generator's position in the stream tlb_random (R40). Log 10. -/
  rng : Nat
  /-- RAM and ROM by physical address (R62). -/
  mem : Memory
  dev : Devices
  /-- The level of the interrupt lines that no device drives (R41, R301). Log 29. -/
  extIrq : BitVec 16
  /-- Configuration, which no step changes (R7, R45). Log 7. -/
  cfg : Config
  /-- The model's own: what the environment does in the turns to come. Log 19. -/
  inputs : List TurnInput
  /-- The model's own: the bus cycles of the last turn, in order. Log 30. -/
  bus : List BusCycle
  /-- The model's own: the counter behind the free values. Log 37. -/
  draws : Nat
deriving DecidableEq, Repr

/-- Stops of the machine: there are none, and so no constructor. Every fault of the ECO32 is an exception with a next
state (R282, R290); an address that does not exist takes the Bus Timeout Fault (R95). Safe: nothing is left unmodelled
behind a stop. -/
inductive Fault where
deriving DecidableEq, Repr

/-- Instructions without a meaning. -/
inductive Refusal where
  /-- Raised only by an arm of exec whose instruction has no meaning; no arm of this model does. Safe: a refused
  instruction proves nothing about the hardware. -/
  | notModelled (mnemonic : String)
deriving DecidableEq, Repr

/-- The timer at reset (log 6). -/
def Timer.reset : Timer := { enable := false, wrap := false, divisor := 0, counter := 0 }

/-- The keyboard at reset (log 6). -/
def Keyboard.reset : Keyboard := { enable := false, ready := false, data := 0 }

/-- A serial line at reset (log 6). -/
def Terminal.reset : Terminal :=
  { rcvEnable := false, rcvReady := false, rcvData := 0, sndEnable := false, sndReady := false, sent := [] }

/-- The disk controller at reset: INIT is 0 (R338); the rest log 6. -/
def Disk.reset : Disk :=
  { dmarq := false, init := false, fin := false, err := false, wr := false, ien := false, busy := false, again := false,
    count := 0, sector := 0, buffer := [], medium := [] }

/-- All devices at reset (log 6). -/
def Devices.reset : Devices :=
  { timer := Timer.reset, display := [], keyboard := Keyboard.reset, term1 := Terminal.reset, term2 := Terminal.reset,
    disk := Disk.reset }

/-- The PSW at reset: all 32 bits 0 (R46). -/
def Psw.reset : Psw :=
  { ignored := 0, v := false, uc := false, up := false, uo := false, ic := false, ip := false, io := false, eid := 0,
    ien := 0 }

/-- The machine right after reset: pc = 0xE0000000 and PSW = 0 (R46, R351). Every other value is the model's, named in
INVENTORY.md and logs 2 to 7. -/
def State.reset : State :=
  { regs := Vector.replicate 31 0
    pc := 0xE0000000
    psw := Psw.reset
    tlbIndex := { miss := false, ignored := 0, index := 0 }
    tlbHigh := { page := 0, ignored := 0 }
    tlbLow := { frame := 0, ignored := 0, write := false, valid := false }
    tlbBad := 0
    tlb := Vector.replicate 32 { page := 0, frame := 0, write := false, valid := false }
    rng := 0
    mem := []
    dev := Devices.reset
    extIrq := 0
    cfg := Config.demo
    inputs := []
    bus := []
    draws := 0 }

end Sys2Proof.Machine
end

