-- ==== Sys2Proof/Machine/Ops.lean ====
section
/-! DEFINITION. The named operations over registers and special registers, taking an exception and returning from one
(spec 10_state.md, 43_system.md R250 to R259, 60_exceptions.md R290, R291). -/

namespace Sys2Proof.Machine

/-- What a step or an instruction answers. -/
abbrev Result := Host.Outcome State Fault Refusal

/-! ## Reading and writing one component -/

/-- x[r]: register 0 always reads 0 (R21). -/
def State.reg (s : State) (r : Reg) : Word :=
  if r = 0#5 then 0#32 else s.regs[r.toNat - 1]'(by have := r.isLt; omega)

/-- x[r] <- v: a write to register 0 has no effect (R21). -/
def State.setReg (s : State) (r : Reg) (v : Word) : State :=
  if r = 0#5 then s else { s with regs := s.regs.set (r.toNat - 1) v (by have := r.isLt; omega) }

/-- TLB[i] (R36). -/
def State.entry (s : State) (i : BitVec 5) : TlbEntry := s.tlb[i.toNat]'(i.isLt)

/-- TLB[i] <- e (R36). -/
def State.setEntry (s : State) (i : BitVec 5) (e : TlbEntry) : State :=
  { s with tlb := s.tlb.set i.toNat e i.isLt }

def State.setPc (s : State) (v : Word) : State := { s with pc := v }
def State.setPsw (s : State) (v : Psw) : State := { s with psw := v }
def State.setIndex (s : State) (v : TlbIndex) : State := { s with tlbIndex := v }
def State.setHigh (s : State) (v : TlbHigh) : State := { s with tlbHigh := v }
def State.setLow (s : State) (v : TlbLow) : State := { s with tlbLow := v }
def State.setBad (s : State) (v : Word) : State := { s with tlbBad := v }
def State.setRng (s : State) (v : Nat) : State := { s with rng := v }
def State.setMem (s : State) (v : Memory) : State := { s with mem := v }
def State.setDev (s : State) (v : Devices) : State := { s with dev := v }
def State.setExtIrq (s : State) (v : BitVec 16) : State := { s with extIrq := v }
def State.setInputs (s : State) (v : List TurnInput) : State := { s with inputs := v }
def State.setBus (s : State) (v : List BusCycle) : State := { s with bus := v }

/-- Move the counter behind the free values past k of them (log 37). -/
def State.drawn (s : State) (k : Nat) : State := { s with draws := s.draws + k }

/-- Add a cycle to the record of the turn's bus cycles (log 30). -/
def State.addCycle (s : State) (c : BusCycle) : State := s.setBus (s.bus ++ [c])

/-! ## The special registers as words -/

/-- The 32 bits of the PSW (R28). -/
def Psw.toWord (p : Psw) : Word :=
  p.ignored ++ BitVec.ofBool p.v ++ BitVec.ofBool p.uc ++ BitVec.ofBool p.up ++ BitVec.ofBool p.uo ++
    BitVec.ofBool p.ic ++ BitVec.ofBool p.ip ++ BitVec.ofBool p.io ++ p.eid ++ p.ien

/-- The PSW with bits 27..0 of a word and the given bits 31..28 (R28, R34, R254). -/
def Psw.ofWord (w : Word) (ignored : BitVec 4) : Psw :=
  { ignored := ignored
    v := w.getLsbD 27
    uc := w.getLsbD 26
    up := w.getLsbD 25
    uo := w.getLsbD 24
    ic := w.getLsbD 23
    ip := w.getLsbD 22
    io := w.getLsbD 21
    eid := w.extractLsb' 16 5
    ien := w.extractLsb' 0 16 }

/-- The 32 bits of S[1] (R35). -/
def TlbIndex.toWord (t : TlbIndex) : Word := BitVec.ofBool t.miss ++ t.ignored ++ t.index

/-- S[1] with bits 31 and 4..0 of a word and the given bits 30..5 (R35). -/
def TlbIndex.ofWord (w : Word) (ignored : BitVec 26) : TlbIndex :=
  { miss := w.getLsbD 31, ignored := ignored, index := w.extractLsb' 0 5 }

/-- The 32 bits of S[2] (R37). -/
def TlbHigh.toWord (t : TlbHigh) : Word := t.page ++ t.ignored

/-- S[2] with bits 31..12 of a word and the given bits 11..0 (R37). -/
def TlbHigh.ofWord (w : Word) (ignored : BitVec 12) : TlbHigh :=
  { page := w.extractLsb' 12 20, ignored := ignored }

/-- The 32 bits of S[3] (R38). -/
def TlbLow.toWord (t : TlbLow) : Word :=
  t.frame ++ t.ignored ++ BitVec.ofBool t.write ++ BitVec.ofBool t.valid

/-- S[3] with bits 31..12, 1 and 0 of a word and the given bits 11..2 (R38). -/
def TlbLow.ofWord (w : Word) (ignored : BitVec 10) : TlbLow :=
  { frame := w.extractLsb' 12 20, ignored := ignored, write := w.getLsbD 1, valid := w.getLsbD 0 }

/-- S[z] for z in 0..4 (R27, R253); none for any other z. -/
def State.special (s : State) (z : Half) : Option Word :=
  match z.toNat with
  | 0 => some s.psw.toWord
  | 1 => some s.tlbIndex.toWord
  | 2 => some s.tlbHigh.toWord
  | 3 => some s.tlbLow.toWord
  | 4 => some s.tlbBad
  | _ => none

/-- S[z] <- v for z in 0..4; none for any other z (R254). The bits that the manual calls ignored take a free value
(R34, R35, R37, R38, log 8). -/
def State.setSpecial (s : State) (z : Half) (v : Word) : Option State :=
  match z.toNat with
  | 0 => some ((s.setPsw (Psw.ofWord v (Config.draw 4 s.draws))).drawn 1)
  | 1 => some ((s.setIndex (TlbIndex.ofWord v (Config.draw 26 s.draws))).drawn 1)
  | 2 => some ((s.setHigh (TlbHigh.ofWord v (Config.draw 12 s.draws))).drawn 1)
  | 3 => some ((s.setLow (TlbLow.ofWord v (Config.draw 10 s.draws))).drawn 1)
  | 4 => some (s.setBad v)
  | _ => none

/-! ## TLB entries and the register pair -/

/-- The page number of a virtual address, or the frame number of a physical one (R14, R76). -/
def pageOf (a : Word) : Page := a.extractLsb' 12 20

/-- EntryFromRegs (R259). -/
def State.entryFromRegs (s : State) : TlbEntry :=
  { page := s.tlbHigh.page, frame := s.tlbLow.frame, write := s.tlbLow.write, valid := s.tlbLow.valid }

/-- RegsFromEntry (R259): the ignored bits of both registers take free values (log 8). -/
def State.regsFromEntry (s : State) (e : TlbEntry) : State :=
  ((s.setHigh { page := e.page, ignored := Config.draw 12 s.draws }).setLow
    { frame := e.frame, ignored := Config.draw 10 (s.draws + 1), write := e.write, valid := e.valid }).drawn 2

/-- The 32 TLB indices in rising order. -/
def tlbIndices : List (BitVec 5) := (List.range 32).map (BitVec.ofNat 5)

/-- The indices of the entries that hold a page number, valid or not (R77, R78, R255). -/
def State.hits (s : State) (page : Page) : List (BitVec 5) :=
  tlbIndices.filter fun i => (s.entry i).page == page

/-! ## Taking an exception and returning from one -/

/-- The exception identifier (R282). -/
def Cause.eid : Cause → BitVec 5
  | .interrupt line => line.setWidth 5
  | .busTimeout => 16
  | .illegalInstruction => 17
  | .privilegedInstruction => 18
  | .divisionByZero => 19
  | .trap => 20
  | .tlbMiss _ => 21
  | .tlbWrite _ => 22
  | .tlbInvalid _ => 23
  | .illegalAddress _ => 24
  | .privilegedAddress _ => 25

/-- The base address by PSW.V (R29, R291). -/
def serviceBase (v : Bool) : Word := if v then 0xC0000000 else 0xE0000000

/-- A User Space TLB Miss: EID 21 with bit 31 of the faulting address 0 (R79, R291). -/
def Cause.isUserMiss : Cause → Bool
  | .tlbMiss va => !va.getLsbD 31
  | .interrupt _ => false
  | .busTimeout => false
  | .illegalInstruction => false
  | .privilegedInstruction => false
  | .divisionByZero => false
  | .trap => false
  | .tlbWrite _ => false
  | .tlbInvalid _ => false
  | .illegalAddress _ => false
  | .privilegedAddress _ => false

/-- ServiceAddress (R291): base + 8 for a User Space TLB Miss, base + 4 for everything else. -/
def serviceAddress (v : Bool) (c : Cause) : Word := serviceBase v + if c.isUserMiss then 8 else 4

/-- The PSW of an accepted exception: push 0 on the I stack and on the U stack, load EID (R290 steps 2 to 4; R30, R31). -/
def Psw.accepted (p : Psw) (c : Cause) : Psw :=
  { p with io := p.ip, ip := p.ic, ic := false, uo := p.up, up := p.uc, uc := false, eid := c.eid }

/-- The PSW that RFX leaves: pop both stacks (R252, R30, R31). -/
def Psw.popped (p : Psw) : Psw := { p with ic := p.ip, ip := p.io, uc := p.up, up := p.uo }

/-- Accept (R290): x[30] <- ret, PSW, pc <- the service address. -/
def accept (c : Cause) (ret : Word) (s : State) : State :=
  ((s.setReg 30 ret).setPsw (s.psw.accepted c)).setPc (serviceAddress s.psw.v c)

/-- What a fault writes before it is accepted (R80): S[4] for the address faults, and the page number in S[2] for the
three TLB faults, its ignored bits a free value (log 8). -/
def noteAddress (c : Cause) (s : State) : State :=
  match c with
  | .tlbMiss va => ((s.setBad va).setHigh { page := pageOf va, ignored := Config.draw 12 s.draws }).drawn 1
  | .tlbWrite va => ((s.setBad va).setHigh { page := pageOf va, ignored := Config.draw 12 s.draws }).drawn 1
  | .tlbInvalid va => ((s.setBad va).setHigh { page := pageOf va, ignored := Config.draw 12 s.draws }).drawn 1
  | .illegalAddress va => s.setBad va
  | .privilegedAddress va => s.setBad va
  | .interrupt _ => s
  | .busTimeout => s
  | .illegalInstruction => s
  | .privilegedInstruction => s
  | .divisionByZero => s
  | .trap => s

/-- raise (R12): the side registers of the fault, then its acceptance with the given return address. -/
def raise (c : Cause) (ret : Word) (s : State) : State := accept c ret (noteAddress c s)

/-- A fault of the instruction being executed: pc holds the instruction's address plus 4, and "a fault subtracts 4 again
to obtain the original address of that instruction" (R286, R290). Log 32. -/
def raiseFault (c : Cause) (s : State) : Result := .next (raise c (s.pc - 4) s)

/-- Return from an exception: pc <- x[30] and pop both stacks (R252). -/
def returnFromException (s : State) : State := (s.setPsw s.psw.popped).setPc (s.reg 30)

/-- The first test of the seven privileged instructions (R250): in User Mode the Privileged Instruction Fault and
nothing else; in Kernel Mode the rest of the instruction. -/
def privileged (body : State → Result) (s : State) : Result :=
  if s.psw.uc then raiseFault .privilegedInstruction s else body s

end Sys2Proof.Machine
end

