-- ==== Sys2Proof/Machine/Operands.lean ====
section
/-! DEFINITION. Operand forms: immediates, shift counts, targets, data addresses, and the values that the computation
instructions compute from them (spec 30_encoding.md R125, R126; 40_computation.md; 42_load_store.md R231, R232). -/

namespace Sys2Proof.Machine

/-! ## Immediates -/

/-- signext32 of a 16-bit immediate (R11, R125). -/
def sext (y : Half) : Word := y.signExtend 32

/-- zeroext32 of a 16-bit immediate (R11, R125). -/
def zext (y : Half) : Word := y.setWidth 32

/-- The immediate in bits 31..16 (R125, R194). -/
def upper (y : Half) : Word := y ++ 0#16

/-- The shift count of a register operand, its 5 low bits (R188). -/
def countOfWord (y : Word) : Nat := (y.extractLsb' 0 5).toNat

/-- The shift count of an immediate operand, its 5 low bits (R125, R189). -/
def countOfImm (y : Half) : Nat := (y.extractLsb' 0 5).toNat

/-! ## Targets and addresses -/

/-- The target of a branch: pc (already A + 4) plus 4 times the offset, modulo 2^32 (R126, R200, log 14). -/
def branchTarget (pc : Word) (offset : Half) : Word := pc + 4 * offset.signExtend 32

/-- The target of J and JAL (R126, R200, log 14). -/
def jumpTarget (pc : Word) (offset : BitVec 26) : Word := pc + 4 * offset.signExtend 32

/-- A_v <- truncate32(R_x + signext32(y)) (R231, log 14). -/
def dataAddress (x : Reg) (y : Half) (s : State) : Word := s.reg x + sext y

/-! ## Values -/

/-- truncate32(signed(a) * signed(b)) (R168). -/
def mulSigned (a b : Word) : Word := BitVec.ofInt 32 (a.toInt * b.toInt)

/-- truncate32(unsigned(a) * unsigned(b)) (R170). -/
def mulUnsigned (a b : Word) : Word := BitVec.ofNat 32 (a.toNat * b.toNat)

/-- The signed quotient truncated to 32 bits (R162, R172, D2): rounded toward zero, the spec's choice, or down where the
parameter sdiv_rounding says so (R7, D1). Log 12, log 13. -/
def divSigned (m : SdivRounding) (a b : Word) : Word :=
  match m with
  | .trunc => BitVec.ofInt 32 (a.toInt.tdiv b.toInt)
  | .floor => BitVec.ofInt 32 (a.toInt.fdiv b.toInt)

/-- The signed remainder, dividend minus quotient times divisor (R162, R176). Log 12. -/
def remSigned (m : SdivRounding) (a b : Word) : Word :=
  match m with
  | .trunc => BitVec.ofInt 32 (a.toInt.tmod b.toInt)
  | .floor => BitVec.ofInt 32 (a.toInt.fmod b.toInt)

/-- floor(unsigned(a) / unsigned(b)) (R174). -/
def divUnsigned (a b : Word) : Word := BitVec.ofNat 32 (a.toNat / b.toNat)

/-- unsigned(a) mod unsigned(b) (R178). -/
def remUnsigned (a b : Word) : Word := BitVec.ofNat 32 (a.toNat % b.toNat)

/-- Bit i of the result is NOT (a[i] XOR b[i]) (R186). -/
def xnor (a b : Word) : Word := ~~~(a ^^^ b)

/-- Shift left, zeros shifted in (R188). -/
def shiftLeft (a : Word) (count : Nat) : Word := a <<< count

/-- Shift right, zeros shifted in (R190). -/
def shiftRight (a : Word) (count : Nat) : Word := a >>> count

/-- Shift right, copies of bit 31 shifted in (R192). -/
def shiftArith (a : Word) (count : Nat) : Word := a.sshiftRight count

/-! ## Extension of loaded values -/

/-- signext32 of the low half-word of a bus response (R232, R234). -/
def signHalf (v : Word) : Word := (v.extractLsb' 0 16).signExtend 32

/-- zeroext32 of the low half-word of a bus response (R232, R235). -/
def zeroHalf (v : Word) : Word := (v.extractLsb' 0 16).setWidth 32

/-- signext32 of the low byte of a bus response (R232, R236). -/
def signByte (v : Word) : Word := (v.extractLsb' 0 8).signExtend 32

/-- zeroext32 of the low byte of a bus response (R232, R237). -/
def zeroByte (v : Word) : Word := (v.extractLsb' 0 8).setWidth 32

end Sys2Proof.Machine
end

