-- ==== Sys2Proof/Machine/Computation.lean ====
section
/-! DEFINITION. The meanings of the 31 computation instructions (spec 40_computation.md R160 to R194). -/

namespace Sys2Proof.Machine

/-- The end of a computation: R_r <- v (R160); pc already holds the address of the instruction plus 4. -/
def writeResult (r : Reg) (v : Word) (s : State) : Result := .next (s.setReg r v)

/-- The end of a division: the Division by Zero Fault when the divisor test holds, before any write (R163). -/
def writeQuotient (zero : Bool) (r : Reg) (v : Word) (s : State) : Result :=
  if zero then raiseFault .divisionByZero s else writeResult r v s

/-- ADD (R164). -/
def execAdd (r x y : Reg) (s : State) : Result :=
  writeResult r (s.reg x + s.reg y) s

/-- ADDI (R165). -/
def execAddi (r x : Reg) (y : Half) (s : State) : Result :=
  writeResult r (s.reg x + sext y) s

/-- SUB (R166). -/
def execSub (r x y : Reg) (s : State) : Result :=
  writeResult r (s.reg x - s.reg y) s

/-- SUBI (R167). -/
def execSubi (r x : Reg) (y : Half) (s : State) : Result :=
  writeResult r (s.reg x - sext y) s

/-- MUL (R168). -/
def execMul (r x y : Reg) (s : State) : Result :=
  writeResult r (mulSigned (s.reg x) (s.reg y)) s

/-- MULI (R169). -/
def execMuli (r x : Reg) (y : Half) (s : State) : Result :=
  writeResult r (mulSigned (s.reg x) (sext y)) s

/-- MULU (R170). -/
def execMulu (r x y : Reg) (s : State) : Result :=
  writeResult r (mulUnsigned (s.reg x) (s.reg y)) s

/-- MULUI (R171). -/
def execMului (r x : Reg) (y : Half) (s : State) : Result :=
  writeResult r (mulUnsigned (s.reg x) (zext y)) s

/-- DIV (R172). -/
def execDiv (r x y : Reg) (s : State) : Result :=
  writeQuotient (s.reg y == 0) r (divSigned s.cfg.sdivRounding (s.reg x) (s.reg y)) s

/-- DIVI (R173). -/
def execDivi (r x : Reg) (y : Half) (s : State) : Result :=
  writeQuotient (y == 0) r (divSigned s.cfg.sdivRounding (s.reg x) (sext y)) s

/-- DIVU (R174). -/
def execDivu (r x y : Reg) (s : State) : Result :=
  writeQuotient (s.reg y == 0) r (divUnsigned (s.reg x) (s.reg y)) s

/-- DIVUI (R175). -/
def execDivui (r x : Reg) (y : Half) (s : State) : Result :=
  writeQuotient (y == 0) r (divUnsigned (s.reg x) (zext y)) s

/-- REM (R176). -/
def execRem (r x y : Reg) (s : State) : Result :=
  writeQuotient (s.reg y == 0) r (remSigned s.cfg.sdivRounding (s.reg x) (s.reg y)) s

/-- REMI (R177). -/
def execRemi (r x : Reg) (y : Half) (s : State) : Result :=
  writeQuotient (y == 0) r (remSigned s.cfg.sdivRounding (s.reg x) (sext y)) s

/-- REMU (R178). -/
def execRemu (r x y : Reg) (s : State) : Result :=
  writeQuotient (s.reg y == 0) r (remUnsigned (s.reg x) (s.reg y)) s

/-- REMUI (R179). -/
def execRemui (r x : Reg) (y : Half) (s : State) : Result :=
  writeQuotient (y == 0) r (remUnsigned (s.reg x) (zext y)) s

/-- AND (R180). -/
def execAnd (r x y : Reg) (s : State) : Result :=
  writeResult r (s.reg x &&& s.reg y) s

/-- ANDI (R181). -/
def execAndi (r x : Reg) (y : Half) (s : State) : Result :=
  writeResult r (s.reg x &&& zext y) s

/-- OR (R182). -/
def execOr (r x y : Reg) (s : State) : Result :=
  writeResult r (s.reg x ||| s.reg y) s

/-- ORI (R183). -/
def execOri (r x : Reg) (y : Half) (s : State) : Result :=
  writeResult r (s.reg x ||| zext y) s

/-- XOR (R184). -/
def execXor (r x y : Reg) (s : State) : Result :=
  writeResult r (s.reg x ^^^ s.reg y) s

/-- XORI (R185). -/
def execXori (r x : Reg) (y : Half) (s : State) : Result :=
  writeResult r (s.reg x ^^^ zext y) s

/-- XNOR (R186). -/
def execXnor (r x y : Reg) (s : State) : Result :=
  writeResult r (xnor (s.reg x) (s.reg y)) s

/-- XNORI (R187). -/
def execXnori (r x : Reg) (y : Half) (s : State) : Result :=
  writeResult r (xnor (s.reg x) (zext y)) s

/-- SLL (R188). -/
def execSll (r x y : Reg) (s : State) : Result :=
  writeResult r (shiftLeft (s.reg x) (countOfWord (s.reg y))) s

/-- SLLI (R189). -/
def execSlli (r x : Reg) (y : Half) (s : State) : Result :=
  writeResult r (shiftLeft (s.reg x) (countOfImm y)) s

/-- SLR (R190). -/
def execSlr (r x y : Reg) (s : State) : Result :=
  writeResult r (shiftRight (s.reg x) (countOfWord (s.reg y))) s

/-- SLRI (R191). -/
def execSlri (r x : Reg) (y : Half) (s : State) : Result :=
  writeResult r (shiftRight (s.reg x) (countOfImm y)) s

/-- SAR (R192). -/
def execSar (r x y : Reg) (s : State) : Result :=
  writeResult r (shiftArith (s.reg x) (countOfWord (s.reg y))) s

/-- SARI (R193). -/
def execSari (r x : Reg) (y : Half) (s : State) : Result :=
  writeResult r (shiftArith (s.reg x) (countOfImm y)) s

/-- LDHI (R194): no register is read. -/
def execLdhi (r : Reg) (y : Half) (s : State) : Result := writeResult r (upper y) s

end Sys2Proof.Machine
end

