-- ==== Sys2Proof/Machine/Flags.lean ====
section
/-! DEFINITION. The ECO32 has no flags and no condition codes (spec 10_state.md R42): a conditional branch compares two
registers itself. These are the comparisons of the ten branches (41_control_flow.md R203 to R212), stored nowhere. -/

namespace Sys2Proof.Machine

/-- BEQ (R203). -/
def condEq (a b : Word) : Bool := a == b

/-- BNE (R204). -/
def condNe (a b : Word) : Bool := a != b

/-- BLE, signed (R205). -/
def condLe (a b : Word) : Bool := decide (a.toInt ≤ b.toInt)

/-- BLEU, unsigned (R206). -/
def condLeU (a b : Word) : Bool := decide (a.toNat ≤ b.toNat)

/-- BLT, signed (R207). -/
def condLt (a b : Word) : Bool := decide (a.toInt < b.toInt)

/-- BLTU, unsigned (R208). -/
def condLtU (a b : Word) : Bool := decide (a.toNat < b.toNat)

/-- BGE, signed (R209). -/
def condGe (a b : Word) : Bool := decide (b.toInt ≤ a.toInt)

/-- BGEU, unsigned (R210). -/
def condGeU (a b : Word) : Bool := decide (b.toNat ≤ a.toNat)

/-- BGT, signed (R211). -/
def condGt (a b : Word) : Bool := decide (b.toInt < a.toInt)

/-- BGTU, unsigned (R212). -/
def condGtU (a b : Word) : Bool := decide (b.toNat < a.toNat)

end Sys2Proof.Machine
end

