-- ==== Sys2Proof/Machine/Control.lean ====
section
/-! DEFINITION. The meanings of the 14 control flow instructions (spec 41_control_flow.md R200 to R216). In every formula
pc is already the address of the instruction plus 4 (R200). A bad target faults at the next fetch (R202). -/

namespace Sys2Proof.Machine

/-- A conditional branch (R202 d, R203 to R212): pc <- the target if taken; otherwise nothing changes. -/
def branch (taken : Bool) (offset : Half) (s : State) : Result :=
  .next (if taken then s.setPc (branchTarget s.pc offset) else s)

/-- BEQ (R203). -/
def execBeq (x y : Reg) (offset : Half) (s : State) : Result :=
  branch (condEq (s.reg x) (s.reg y)) offset s

/-- BNE (R204). -/
def execBne (x y : Reg) (offset : Half) (s : State) : Result :=
  branch (condNe (s.reg x) (s.reg y)) offset s

/-- BLE (R205). -/
def execBle (x y : Reg) (offset : Half) (s : State) : Result :=
  branch (condLe (s.reg x) (s.reg y)) offset s

/-- BLEU (R206). -/
def execBleu (x y : Reg) (offset : Half) (s : State) : Result :=
  branch (condLeU (s.reg x) (s.reg y)) offset s

/-- BLT (R207). -/
def execBlt (x y : Reg) (offset : Half) (s : State) : Result :=
  branch (condLt (s.reg x) (s.reg y)) offset s

/-- BLTU (R208). -/
def execBltu (x y : Reg) (offset : Half) (s : State) : Result :=
  branch (condLtU (s.reg x) (s.reg y)) offset s

/-- BGE (R209). -/
def execBge (x y : Reg) (offset : Half) (s : State) : Result :=
  branch (condGe (s.reg x) (s.reg y)) offset s

/-- BGEU (R210). -/
def execBgeu (x y : Reg) (offset : Half) (s : State) : Result :=
  branch (condGeU (s.reg x) (s.reg y)) offset s

/-- BGT (R211). -/
def execBgt (x y : Reg) (offset : Half) (s : State) : Result :=
  branch (condGt (s.reg x) (s.reg y)) offset s

/-- BGTU (R212). -/
def execBgtu (x y : Reg) (offset : Half) (s : State) : Result :=
  branch (condGtU (s.reg x) (s.reg y)) offset s

/-- J (R215). -/
def execJ (offset : BitVec 26) (s : State) : Result := .next (s.setPc (jumpTarget s.pc offset))

/-- JR (R216): all 32 bits are copied. -/
def execJr (dest : Reg) (s : State) : Result := .next (s.setPc (s.reg dest))

/-- JAL (R213): R_31 <- pc; pc <- the target. -/
def execJal (offset : BitVec 26) (s : State) : Result :=
  .next ((s.setReg 31 s.pc).setPc (jumpTarget s.pc offset))

/-- JALR (R214): the target is read before R_31 is written. -/
def execJalr (dest : Reg) (s : State) : Result := .next ((s.setPc (s.reg dest)).setReg 31 s.pc)

end Sys2Proof.Machine
end

