-- ==== Sys2Proof/Machine/Devices.lean ====
section
/-! DEFINITION. The demonstration project's devices: register addresses, reads, writes, events and interrupt lines
(spec 20_memory.md R94, R105; 60_exceptions.md R320 to R342). -/

namespace Sys2Proof.Machine

/-! ## Addresses -/

/-- The word index inside a device's list of `size` words: an index beyond the list is a hole, or a repetition of the
list (D23, log 17). -/
def localIndex (h : DevHoles) (size k : Nat) : Option Nat :=
  if k < size then some k else match h with
    | .timeout => none
    | .mirror => some (k % size)

/-- The timer's words (R331). -/
def timerReg (h : DevHoles) (k : Nat) : Option DevReg :=
  (localIndex h 2 k).map fun j => if j = 0 then .timerControl else .timerDivisor

/-- The display's words: cell (line, column) is word 128 * line + column (R332, C15, log 27). -/
def displayReg (h : DevHoles) (k : Nat) : Option DevReg := (localIndex h 4096 k).map .displayCell

/-- The keyboard's words (R333, R334). -/
def keyboardReg (h : DevHoles) (k : Nat) : Option DevReg :=
  (localIndex h 2 k).map fun j => if j = 0 then .keyboardControl else .keyboardData

/-- The terminal's words: 0 to 3 for terminal 1, 4 to 7 for terminal 2 (R335). -/
def terminalReg (h : DevHoles) (k : Nat) : Option DevReg :=
  (localIndex h 8 k).map fun j =>
    if j % 4 = 0 then .receiverControl (decide (4 ≤ j))
    else if j % 4 = 1 then .receiverData (decide (4 ≤ j))
    else if j % 4 = 2 then .senderControl (decide (4 ≤ j))
    else .senderData (decide (4 ≤ j))

/-- The disk controller's words: four registers, an unused range, and from offset 0x80000 on the data buffer, repeated to
the end of the window (R337). -/
def diskReg (h : DevHoles) (k : Nat) : Option DevReg :=
  if 0x20000 ≤ k then some (.diskBuffer (k % 1024))
  else (localIndex h 4 k).map fun j =>
    if j = 0 then .diskControl else if j = 1 then .diskCount else if j = 2 then .diskSector else .diskCapacity

/-- The word of a device, by its index in the device's window. -/
def kindReg (kind : DeviceKind) (h : DevHoles) (k : Nat) : Option DevReg :=
  match kind with
  | .timer => timerReg h k
  | .display => displayReg h k
  | .keyboard => keyboardReg h k
  | .terminal => terminalReg h k
  | .disk => diskReg h k
  | .other => some .other

/-- The window that a physical address lies in. At most one does (R94); of overlapping windows the first (log 39). -/
def windowOf (cfg : Config) (pa : Word) : Option Window :=
  cfg.windows.find? fun w => decide (w.base ≤ pa.toNat) && decide (pa.toNat < w.base + w.size)

/-- The device word that a peripheral address selects (R94, R105): the lowest two address lines reach no device. -/
def deviceReg (cfg : Config) (pa : Word) : Option DevReg :=
  match windowOf cfg pa with
  | some w => kindReg w.kind cfg.devHoles ((pa.toNat - w.base) / 4)
  | none => none

/-! ## Free device states -/

/-- A timer of which nothing is known (log 15). -/
def Timer.free (n : Nat) : Timer :=
  { enable := (Config.draw 8 n).getLsbD 0, wrap := (Config.draw 8 n).getLsbD 1, divisor := Config.draw 32 n,
    counter := Config.draw 32 (n + 1) }

/-- A keyboard of which nothing is known (log 15, log 23). -/
def Keyboard.free (n : Nat) : Keyboard :=
  { enable := (Config.draw 8 n).getLsbD 0, ready := (Config.draw 8 n).getLsbD 1, data := Config.draw 8 (n + 1) }

/-- A terminal of which only the past output is known (log 15, log 23). -/
def Terminal.free (n : Nat) (t : Terminal) : Terminal :=
  { rcvEnable := (Config.draw 8 n).getLsbD 0
    rcvReady := (Config.draw 8 n).getLsbD 1
    rcvData := Config.draw 8 (n + 1)
    sndEnable := (Config.draw 8 n).getLsbD 2
    sndReady := (Config.draw 8 n).getLsbD 3
    sent := t.sent ++ (Config.drawCells 8 n).map Prod.snd }

/-- Undetermined display memory (log 15). -/
def freeDisplay (n : Nat) : Cells 16 := Cells.ofContents (· < 4096) (Config.drawCells 16 n)

/-- Undetermined contents of the data buffer (log 26). -/
def freeBuffer (n : Nat) : Cells 8 := Cells.ofContents (· < 4096) (Config.drawCells 8 n)

/-- Undetermined contents of the disk (log 26). -/
def freeMedium (n : Nat) : Cells 8 := Cells.ofContents (fun _ => true) (Config.drawCells 8 n)

/-- A disk controller of which nothing is known (log 15, log 26). -/
def Disk.free (n : Nat) : Disk :=
  { dmarq := (Config.draw 8 n).getLsbD 0
    init := (Config.draw 8 n).getLsbD 1
    fin := (Config.draw 8 n).getLsbD 2
    err := (Config.draw 8 n).getLsbD 3
    wr := (Config.draw 8 n).getLsbD 4
    ien := (Config.draw 8 n).getLsbD 5
    busy := (Config.draw 8 n).getLsbD 6
    again := (Config.draw 8 n).getLsbD 7
    count := Config.draw 32 n
    sector := Config.draw 32 (n + 1)
    buffer := freeBuffer n
    medium := freeMedium (n + 1) }

/-- Terminal 1 or 2. -/
def Devices.terminal (d : Devices) (second : Bool) : Terminal := if second then d.term2 else d.term1

/-- The devices with terminal 1 or 2 replaced. -/
def Devices.setTerminal (d : Devices) (second : Bool) (t : Terminal) : Devices :=
  if second then { d with term2 := t } else { d with term1 := t }

/-- The devices after an access whose effect on the selected device the spec leaves undefined or does not state: that
device's state is free, the others are as before (R98, N20, U18; logs 15, 23, 26). Each of the two serial lines of the
terminal window counts as a device of its own: DESIGN CHOICE (unsafe, log 15). -/
def Devices.upset (r : DevReg) (n : Nat) (d : Devices) : Devices :=
  match r with
  | .timerControl => { d with timer := Timer.free n }
  | .timerDivisor => { d with timer := Timer.free n }
  | .displayCell _ => { d with display := freeDisplay n }
  | .keyboardControl => { d with keyboard := Keyboard.free n }
  | .keyboardData => { d with keyboard := Keyboard.free n }
  | .receiverControl t => d.setTerminal t ((d.terminal t).free n)
  | .receiverData t => d.setTerminal t ((d.terminal t).free n)
  | .senderControl t => d.setTerminal t ((d.terminal t).free n)
  | .senderData t => d.setTerminal t ((d.terminal t).free n)
  | .diskControl => { d with disk := Disk.free n }
  | .diskCount => { d with disk := Disk.free n }
  | .diskSector => { d with disk := Disk.free n }
  | .diskCapacity => { d with disk := Disk.free n }
  | .diskBuffer _ => { d with disk := Disk.free n }
  | .other => d

/-! ## Word accesses -/

/-- A two-bit control register (R321): bit 1 the interrupt enable, bit 0 the event flag, bits 31..2 a free value (U8,
log 21). -/
def controlWord (n : Nat) (enable flag : Bool) : Word :=
  Config.draw 30 n ++ BitVec.ofBool enable ++ BitVec.ofBool flag

/-- The disk control register as it reads (R338): START reads 0, bits 30..6 are a free value (U8, log 21). -/
def Disk.controlWord (n : Nat) (k : Disk) : Word :=
  BitVec.ofBool k.dmarq ++ Config.draw 25 n ++ BitVec.ofBool k.init ++ BitVec.ofBool k.fin ++ BitVec.ofBool k.err ++
    BitVec.ofBool k.wr ++ BitVec.ofBool k.ien ++ 0#1

/-- A write of the disk control register once the disk is initialized (R338, R339): FIN and IEN are written; WR is
written and START obeyed while no action is in progress. A START during an action is noted, and shows when that action
finishes (log 26). -/
def Disk.writeControl (k : Disk) (v : Word) : Disk :=
  if k.busy then { k with fin := v.getLsbD 4, ien := v.getLsbD 1, again := k.again || v.getLsbD 0 }
  else { k with fin := v.getLsbD 4, wr := v.getLsbD 2, ien := v.getLsbD 1, busy := v.getLsbD 0, again := false }

/-- A word read of a device word (R331 to R341): the word the device drives and the devices after it. An access that the
spec gives no effect answers a free word and leaves the device free (logs 23, 26); so does a device of which nothing is
known, whose state no other access can tell (log 39). -/
def Devices.read (cfg : Config) (r : DevReg) (n : Nat) (d : Devices) : Word × Devices :=
  match r with
  | .timerControl => (controlWord n d.timer.enable d.timer.wrap, d)
  | .timerDivisor => (d.timer.divisor, d)
  | .displayCell k => (Config.draw 16 n ++ d.display.get k, d)
  | .keyboardControl => (controlWord n d.keyboard.enable d.keyboard.ready, d)
  | .keyboardData => (Config.draw 24 n ++ d.keyboard.data, { d with keyboard := { d.keyboard with ready := false } })
  | .receiverControl t => (controlWord n (d.terminal t).rcvEnable (d.terminal t).rcvReady, d)
  | .receiverData t =>
    (Config.draw 24 n ++ (d.terminal t).rcvData, d.setTerminal t { d.terminal t with rcvReady := false })
  | .senderControl t => (controlWord n (d.terminal t).sndEnable (d.terminal t).sndReady, d)
  | .senderData _ => (Config.draw 32 n, d.upset r (n + 1))
  | .diskControl => (d.disk.controlWord n, d)
  | .diskCount => if d.disk.init then (d.disk.count, d) else (Config.draw 32 n, d.upset r (n + 1))
  | .diskSector => if d.disk.init then (d.disk.sector, d) else (Config.draw 32 n, d.upset r (n + 1))
  | .diskCapacity => if d.disk.init then (cfg.diskCapacity, d) else (Config.draw 32 n, d.upset r (n + 1))
  | .diskBuffer k =>
    if d.disk.init && !d.disk.busy then (d.disk.buffer.word (4 * k), d) else (Config.draw 32 n, d.upset r (n + 1))
  | .other => (Config.draw 32 n, d)

/-- A word write of a device word (R331 to R341); where the spec gives no effect the device is left free (logs 23, 26).
Whether a write of the divisor restarts the count is not stated, so the counter is then a free value (R330, log 25). -/
def Devices.write (r : DevReg) (v : Word) (n : Nat) (d : Devices) : Devices :=
  match r with
  | .timerControl => { d with timer := { d.timer with enable := v.getLsbD 1, wrap := v.getLsbD 0 } }
  | .timerDivisor => { d with timer := { d.timer with divisor := v, counter := Config.draw 32 n } }
  | .displayCell k => { d with display := d.display.put k (v.extractLsb' 0 16) }
  | .keyboardControl => { d with keyboard := { d.keyboard with enable := v.getLsbD 1, ready := v.getLsbD 0 } }
  | .keyboardData => d.upset r (n + 1)
  | .receiverControl t =>
    d.setTerminal t { d.terminal t with rcvEnable := v.getLsbD 1, rcvReady := v.getLsbD 0 }
  | .receiverData _ => d.upset r (n + 1)
  | .senderControl t =>
    d.setTerminal t { d.terminal t with sndEnable := v.getLsbD 1, sndReady := v.getLsbD 0 }
  | .senderData t =>
    d.setTerminal t { d.terminal t with sndReady := false, sent := (d.terminal t).sent ++ [v.extractLsb' 0 8] }
  | .diskControl =>
    if d.disk.init then { d with disk := d.disk.writeControl v } else d.upset r (n + 1)
  | .diskCount =>
    if d.disk.init then (if d.disk.busy then d else { d with disk := { d.disk with count := v } })
    else d.upset r (n + 1)
  | .diskSector =>
    if d.disk.init then (if d.disk.busy then d else { d with disk := { d.disk with sector := v } })
    else d.upset r (n + 1)
  | .diskCapacity => if d.disk.init then d else d.upset r (n + 1)
  | .diskBuffer k =>
    if d.disk.init && !d.disk.busy then { d with disk := { d.disk with buffer := d.disk.buffer.putWord (4 * k) v } }
    else d.upset r (n + 1)
  | .other => d

/-! ## Events -/

/-- One clock cycle of the timer: the counter goes down by one; where that reaches zero it is reset to the divisor and
the wrap-around flag is set (R330). A counter that is 0 already counts as having reached zero (log 25). -/
def Timer.clock (t : Timer) : Timer :=
  if t.counter.toNat ≤ 1 then { t with counter := t.divisor, wrap := true } else { t with counter := t.counter - 1 }

/-- A number of clock cycles of the timer (R330). -/
def Timer.clocks (t : Timer) : Nat → Timer
  | 0 => t
  | k + 1 => (t.clocks k).clock

/-- The byte a receiver holds after a byte arrives: what happens to a byte that arrives while Ready is still set is not
stated, so the byte held is then a free value (N20, log 22). -/
def arrived (n : Nat) (ready : Bool) (code : Byte) : Byte := if ready then Config.draw 8 n else code

/-- The transfer that ends (R339, R340): sectors are 512 bytes. -/
def Disk.transferred (k : Disk) : Disk :=
  if k.wr then
    { k with medium := k.medium.putBytes (512 * k.sector.toNat) (k.buffer.bytes 0 (512 * k.count.toNat)) }
  else
    { k with buffer := k.buffer.putBytes 0 (k.medium.bytes (512 * k.sector.toNat) (512 * k.count.toNat)) }

/-- The transfer is one whose outcome the spec states: no error, at most 8 sectors, inside the disk (R339 to R341). -/
def Disk.transferStated (cfg : Config) (failed : Bool) (k : Disk) : Bool :=
  !failed && decide (k.count.toNat ≤ 8) && decide (k.sector.toNat + k.count.toNat ≤ cfg.diskCapacity.toNat)

/-- The action in progress finishes (R339): ERR, FIN, and the data moved; where the spec does not state what was moved,
the target of the transfer is free. Whether an action for which START was written meanwhile is still in progress is a
free value (log 26). -/
def Disk.finish (cfg : Config) (failed : Bool) (n : Nat) (k : Disk) : Disk :=
  let moved :=
    if k.transferStated cfg failed then k.transferred
    else if k.wr then { k with medium := freeMedium n } else { k with buffer := freeBuffer n }
  { moved with fin := true, err := failed, busy := k.again && (Config.draw 8 n).getLsbD 0, again := false }

/-- The devices after an event (R321, R330 to R339). -/
def Devices.event (cfg : Config) (e : Event) (n : Nat) (d : Devices) : Devices :=
  match e with
  | .clock cycles => { d with timer := d.timer.clocks cycles }
  | .key code =>
    { d with keyboard := { d.keyboard with ready := true, data := arrived n d.keyboard.ready code } }
  | .received t char =>
    d.setTerminal t { d.terminal t with rcvReady := true, rcvData := arrived n (d.terminal t).rcvReady char }
  | .senderReady t => d.setTerminal t { d.terminal t with sndReady := true }
  | .diskInitialized => { d with disk := { d.disk with init := true } }
  | .diskFinished failed => if d.disk.busy then { d with disk := d.disk.finish cfg failed n } else d
  | .diskDmarq level => { d with disk := { d.disk with dmarq := level } }
  | .irqLines _ => d

/-- The devices after the reset line: INIT is 0 (R338, R351); nothing else is stated, so the registers are free. The disk
keeps its sectors unless a write to it was cut short. Log 20. -/
def Devices.afterReset (n : Nat) (d : Devices) : Devices :=
  { timer := Timer.free n
    display := freeDisplay n
    keyboard := Keyboard.free (n + 2)
    term1 := d.term1.free (n + 4)
    term2 := d.term2.free (n + 6)
    disk := { Disk.free (n + 8) with
      init := false
      medium := if d.disk.busy && d.disk.wr then freeMedium (n + 10) else d.disk.medium } }

/-! ## Interrupt lines -/

/-- A device's interrupt signal: the AND of its enable and its event flag (R321, R331 to R338). -/
def Devices.signal (d : Devices) : IrqSource → Bool
  | .sender t => (d.terminal t).sndEnable && (d.terminal t).sndReady
  | .receiver t => (d.terminal t).rcvEnable && (d.terminal t).rcvReady
  | .keyboard => d.keyboard.enable && d.keyboard.ready
  | .disk => d.disk.ien && d.disk.fin
  | .timer => d.timer.enable && d.timer.wrap

/-- A device connected to line i signals (R301, R320). -/
def Devices.line (cfg : Config) (d : Devices) (i : Nat) : Bool :=
  cfg.irqMap.any fun p => decide (p.1 = i) && d.signal p.2

/-- irq[i] (R301): driven by a device, or by another source where the platform has one on that line (log 29). -/
def State.irq (s : State) (i : Nat) : Bool :=
  s.dev.line s.cfg i || (s.cfg.otherIrq.getLsbD i && s.extIrq.getLsbD i)

end Sys2Proof.Machine
end

