-- ==== Sys2Proof/Machine/Bus.lean ====
section
/-! DEFINITION. The SoC bus: address decoding and one read or write cycle (spec 20_memory.md R62, R90 to R100). -/

namespace Sys2Proof.Machine

/-- What answers at a physical address (R62, R94). -/
inductive Target where
  | ram
  | rom
  | device (r : DevReg)
  /-- No device is selected: the cycle ends in a timeout (R95). -/
  | nothing
deriving DecidableEq, Repr

/-- What an access to memory, or a translation, answers: a value and the state after it, or a fault and the state in which
it is raised. -/
inductive Access where
  | done (v : Word) (s : State)
  | fault (c : Cause) (s : State)
deriving DecidableEq, Repr

/-- Address decoding (R62, R94): RAM below 0x20000000, ROM below 0x30000000, devices below 0x40000000, nothing above. R62
says only that a subrange answers on a smaller memory; that it is the first part of the range, with no mirror of it above,
is a DESIGN CHOICE for every platform but the demonstration one, whose map R105 gives (unsafe, log 35). -/
def select (cfg : Config) (pa : Word) : Target :=
  if pa.toNat < 0x20000000 then (if pa.toNat < cfg.ramBytes then .ram else .nothing)
  else if pa.toNat < 0x30000000 then (if pa.toNat < 0x20000000 + cfg.romBytes then .rom else .nothing)
  else if pa.toNat < 0x40000000 then
    match deviceReg cfg pa with
    | some r => .device r
    | none => .nothing
  else .nothing

/-- The big-endian value of the bytes at an address, in the low bits of a word (R66, R92). -/
def Memory.read (m : Memory) (a : Nat) (w : Width) : Word :=
  match w with
  | .byte => (Cells.get m a).setWidth 32
  | .half => (Cells.half m a).setWidth 32
  | .word => Cells.word m a

/-- The low bytes of a word written big-endian (R66, R93). -/
def Memory.write (m : Memory) (a : Nat) (w : Width) (v : Word) : Memory :=
  match w with
  | .byte => Cells.put m a (v.extractLsb' 0 8)
  | .half => Cells.putHalf m a (v.extractLsb' 0 16)
  | .word => Cells.putWord m a v

/-- The bits of a word that an access of a width carries (R93); the others 0. -/
def carried (w : Width) (v : Word) : Word :=
  match w with
  | .byte => (v.extractLsb' 0 8).setWidth 32
  | .half => (v.extractLsb' 0 16).setWidth 32
  | .word => v

/-- The number of bytes of an access (R97). -/
def Width.bytes : Width → Nat
  | .byte => 1
  | .half => 2
  | .word => 4

/-- How many free values one device access or event may use (log 37). -/
def drawBlock : Nat := 8

/-- BusRead (R92): RAM and ROM answer their bytes; a device word its register; a sub-word access of a device a free value
and a free device (R98, log 15); no device a Bus Timeout (R95). -/
def busRead (pa : Word) (w : Width) (s : State) : Access :=
  let cycle : BusCycle := { write := false, size := w, addr := pa, data := 0, answered := true }
  match select s.cfg pa with
  | .ram => .done (Memory.read s.mem pa.toNat w) (s.addCycle cycle)
  | .rom => .done (Memory.read s.mem pa.toNat w) (s.addCycle cycle)
  | .device r =>
    if w = .word then
      .done (s.dev.read s.cfg r s.draws).1 (((s.addCycle cycle).setDev (s.dev.read s.cfg r s.draws).2).drawn drawBlock)
    else
      .done (Config.draw 32 s.draws) (((s.addCycle cycle).setDev (s.dev.upset r (s.draws + 1))).drawn drawBlock)
  | .nothing => .fault .busTimeout (s.addCycle { cycle with answered := false })

/-- BusWrite (R93): RAM takes the bytes; ROM keeps its own (R99, D9, log 16); a device word its register; a sub-word
access of a device leaves it free (R98, log 15); no device a Bus Timeout (R95). The value of the answer is not used. -/
def busWrite (pa : Word) (w : Width) (v : Word) (s : State) : Access :=
  let cycle : BusCycle := { write := true, size := w, addr := pa, data := carried w v, answered := true }
  match select s.cfg pa with
  | .ram => .done 0 ((s.addCycle cycle).setMem (Memory.write s.mem pa.toNat w v))
  | .rom =>
    match s.cfg.romWrite with
    | .ignored => .done 0 (s.addCycle cycle)
    | .unanswered => .fault .busTimeout (s.addCycle { cycle with answered := false })
  | .device r =>
    if w = .word then .done 0 (((s.addCycle cycle).setDev (s.dev.write r v s.draws)).drawn drawBlock)
    else .done 0 (((s.addCycle cycle).setDev (s.dev.upset r (s.draws + 1))).drawn drawBlock)
  | .nothing => .fault .busTimeout (s.addCycle { cycle with answered := false })

end Sys2Proof.Machine
end

