-- ==== Sys2Proof/Machine/Mmu.lean ====
section
/-! DEFINITION. Alignment, privilege, address translation, and the access primitives Fetch, MemRead and MemWrite (spec
20_memory.md R70 to R86). -/

namespace Sys2Proof.Machine

/-- R70: a word access needs bits 1..0 of the address 0, a half-word access bit 0. -/
def misaligned (va : Word) (w : Width) : Bool :=
  match w with
  | .byte => false
  | .half => va.getLsbD 0
  | .word => va.getLsbD 0 || va.getLsbD 1

/-- R63, R82: a privileged address in User Mode. -/
def forbidden (va : Word) (s : State) : Bool := va.getLsbD 31 && s.psw.uc

/-- The direct-mapped space, 0xC0000000 and up (R61, R75). -/
def directMapped (va : Word) : Bool := va.getLsbD 31 && va.getLsbD 30

/-- The result of mapping a page that two or more entries hold: undefined (R81), so a free value. It may be no entry, or
an entry with any frame and flags; no entry of the TLB is picked. Log 9. -/
def freeMapping (n : Nat) (page : Page) : Option TlbEntry :=
  let d := Config.draw 23 n
  if d.getLsbD 22 then none
  else some { page := page, frame := d.extractLsb' 0 20, write := d.getLsbD 20, valid := d.getLsbD 21 }

/-- The TLB lookup of a page number over all 32 entries (R77, R78): the entry found, if any, and the state after it. -/
def lookup (page : Page) (s : State) : Option TlbEntry × State :=
  match s.hits page with
  | [] => (none, s)
  | [i] => (some (s.entry i), s)
  | _ :: _ :: _ => (freeMapping s.draws page, s.drawn 1)

/-- The checks on the entry found, in the order miss, invalid, write (R78, R86). -/
def useEntry (va : Word) (isWrite : Bool) (e : Option TlbEntry) (s : State) : Access :=
  match e with
  | none => .fault (.tlbMiss va) s
  | some e =>
    if !e.valid then .fault (.tlbInvalid va) s
    else if isWrite && !e.write then .fault (.tlbWrite va) s
    else .done (e.frame ++ va.extractLsb' 0 12) s

/-- Translate (R78): direct mapping, or the TLB. -/
def translate (va : Word) (isWrite : Bool) (s : State) : Access :=
  if directMapped va then .done (0#2 ++ va.extractLsb' 0 30) s
  else useEntry va isWrite (lookup (pageOf va) s).1 (lookup (pageOf va) s).2

/-- The checks of R86 before the bus: alignment, privilege, translation; then the physical address. -/
def checkAccess (va : Word) (w : Width) (isWrite : Bool) (s : State) : Access :=
  if misaligned va w then .fault (.illegalAddress va) s
  else if forbidden va s then .fault (.privilegedAddress va) s
  else translate va isWrite s

/-- MemRead (R84). -/
def memRead (va : Word) (w : Width) (s : State) : Access :=
  match checkAccess va w false s with
  | .fault c t => .fault c t
  | .done pa t => busRead pa w t

/-- MemWrite (R85). -/
def memWrite (va : Word) (w : Width) (v : Word) (s : State) : Access :=
  match checkAccess va w true s with
  | .fault c t => .fault c t
  | .done pa t => busWrite pa w v t

/-- Fetch (R83): MemRead of the word at pc. -/
def fetch (s : State) : Access := memRead s.pc .word s

end Sys2Proof.Machine
end

