-- ==== Sys2Proof/Machine/LoadStore.lean ====
section
/-! DEFINITION. The meanings of the eight load and store instructions (spec 42_load_store.md R230 to R242). -/

namespace Sys2Proof.Machine

/-- The end of a load (R232, R242): R_r takes the extended response; a fault leaves R_r alone. -/
def finishLoad (r : Reg) (extend : Word → Word) (a : Access) : Result :=
  match a with
  | .done v t => .next (t.setReg r (extend v))
  | .fault c t => raiseFault c t

/-- The end of a store (R232, R242): no register changes. -/
def finishStore (a : Access) : Result :=
  match a with
  | .done _ t => .next t
  | .fault c t => raiseFault c t

/-- LDW (R233). -/
def execLdw (r x : Reg) (y : Half) (s : State) : Result :=
  finishLoad r id (memRead (dataAddress x y s) .word s)

/-- LDH (R234). -/
def execLdh (r x : Reg) (y : Half) (s : State) : Result :=
  finishLoad r signHalf (memRead (dataAddress x y s) .half s)

/-- LDHU (R235). -/
def execLdhu (r x : Reg) (y : Half) (s : State) : Result :=
  finishLoad r zeroHalf (memRead (dataAddress x y s) .half s)

/-- LDB (R236). -/
def execLdb (r x : Reg) (y : Half) (s : State) : Result :=
  finishLoad r signByte (memRead (dataAddress x y s) .byte s)

/-- LDBU (R237). -/
def execLdbu (r x : Reg) (y : Half) (s : State) : Result :=
  finishLoad r zeroByte (memRead (dataAddress x y s) .byte s)

/-- STW (R238). -/
def execStw (r x : Reg) (y : Half) (s : State) : Result :=
  finishStore (memWrite (dataAddress x y s) .word (s.reg r) s)

/-- STH (R239). -/
def execSth (r x : Reg) (y : Half) (s : State) : Result :=
  finishStore (memWrite (dataAddress x y s) .half (s.reg r) s)

/-- STB (R240). -/
def execStb (r x : Reg) (y : Half) (s : State) : Result :=
  finishStore (memWrite (dataAddress x y s) .byte (s.reg r) s)

end Sys2Proof.Machine
end

