-- ==== Sys2Proof/Machine/System.lean ====
section
/-! DEFINITION. The meanings of the eight system instructions (spec 43_system.md R250 to R260). -/

namespace Sys2Proof.Machine

/-- TRAP (R251): the Trap Fault, in either mode. -/
def execTrap (s : State) : Result := raiseFault .trap s

/-- RFX (R252). -/
def execRfx (s : State) : Result := privileged (fun t => .next (returnFromException t)) s

/-- MVFS (R253): the privilege test, then the test of z, then R_r <- S_z. -/
def execMvfs (r : Reg) (z : Half) (s : State) : Result :=
  privileged (fun t =>
    match t.special z with
    | some v => .next (t.setReg r v)
    | none => raiseFault .illegalInstruction t) s

/-- MVTS (R254): the privilege test, then the test of z, then S_z <- R_r. It takes effect at once (D24, log 34). -/
def execMvts (r : Reg) (z : Half) (s : State) : Result :=
  privileged (fun t =>
    match t.setSpecial z (t.reg r) with
    | some u => .next u
    | none => raiseFault .illegalInstruction t) s

/-- TBS (R255): S[1] <- the index of the entry with the page number of S[2], or 0x80000000. Which index two or more
entries give is not defined, so S[1] is then a free value (R81, log 9). -/
def searchTlb (s : State) : State :=
  match s.hits s.tlbHigh.page with
  | [] => s.setIndex { miss := true, ignored := 0, index := 0 }
  | [i] => s.setIndex { miss := false, ignored := 0, index := i }
  | _ :: _ :: _ =>
    (s.setIndex (TlbIndex.ofWord (Config.draw 32 s.draws) ((Config.draw 32 s.draws).extractLsb' 5 26))).drawn 1

/-- TBS (R255). -/
def execTbs (s : State) : Result := privileged (fun t => .next (searchTlb t)) s

/-- X := (random MOD 28) + 4, so 4 <= X <= 31 (R256, R40, log 10). -/
def randomIndex (s : State) : BitVec 5 := BitVec.ofNat 5 (Config.tlbRandom s.rng % 28 + 4)

/-- TBWR (R256): TLB[X] <- EntryFromRegs(); the generator moves on. -/
def execTbwr (s : State) : Result :=
  privileged (fun t => .next ((t.setEntry (randomIndex t) t.entryFromRegs).setRng (t.rng + 1))) s

/-- TBRI (R257): RegsFromEntry(TLB[S[1] MOD 32]). -/
def execTbri (s : State) : Result :=
  privileged (fun t => .next (t.regsFromEntry (t.entry t.tlbIndex.index))) s

/-- TBWI (R258): TLB[S[1] MOD 32] <- EntryFromRegs(). -/
def execTbwi (s : State) : Result :=
  privileged (fun t => .next (t.setEntry t.tlbIndex.index t.entryFromRegs)) s

end Sys2Proof.Machine
end

