-- ==== Sys2Proof/Machine/Dispatch.lean ====
section
/-! DEFINITION. The meaning of each instruction, one arm per constructor of Instr (spec 30_encoding.md R130). The state it
is given has pc at the address of the instruction plus 4 (R26, R200, R285 step 3; log 32). -/

namespace Sys2Proof.Machine

def exec (i : Instr) (s : State) : Host.Outcome State Fault Refusal :=
  match i with
  | .add r x y => Sys2Proof.Machine.execAdd r x y s
  | .addi r x y => Sys2Proof.Machine.execAddi r x y s
  | .sub r x y => Sys2Proof.Machine.execSub r x y s
  | .subi r x y => Sys2Proof.Machine.execSubi r x y s
  | .mul r x y => Sys2Proof.Machine.execMul r x y s
  | .muli r x y => Sys2Proof.Machine.execMuli r x y s
  | .mulu r x y => Sys2Proof.Machine.execMulu r x y s
  | .mului r x y => Sys2Proof.Machine.execMului r x y s
  | .div r x y => Sys2Proof.Machine.execDiv r x y s
  | .divi r x y => Sys2Proof.Machine.execDivi r x y s
  | .divu r x y => Sys2Proof.Machine.execDivu r x y s
  | .divui r x y => Sys2Proof.Machine.execDivui r x y s
  | .rem r x y => Sys2Proof.Machine.execRem r x y s
  | .remi r x y => Sys2Proof.Machine.execRemi r x y s
  | .remu r x y => Sys2Proof.Machine.execRemu r x y s
  | .remui r x y => Sys2Proof.Machine.execRemui r x y s
  | .and r x y => Sys2Proof.Machine.execAnd r x y s
  | .andi r x y => Sys2Proof.Machine.execAndi r x y s
  | .or r x y => Sys2Proof.Machine.execOr r x y s
  | .ori r x y => Sys2Proof.Machine.execOri r x y s
  | .xor r x y => Sys2Proof.Machine.execXor r x y s
  | .xori r x y => Sys2Proof.Machine.execXori r x y s
  | .xnor r x y => Sys2Proof.Machine.execXnor r x y s
  | .xnori r x y => Sys2Proof.Machine.execXnori r x y s
  | .sll r x y => Sys2Proof.Machine.execSll r x y s
  | .slli r x y => Sys2Proof.Machine.execSlli r x y s
  | .slr r x y => Sys2Proof.Machine.execSlr r x y s
  | .slri r x y => Sys2Proof.Machine.execSlri r x y s
  | .sar r x y => Sys2Proof.Machine.execSar r x y s
  | .sari r x y => Sys2Proof.Machine.execSari r x y s
  | .ldhi r y => Sys2Proof.Machine.execLdhi r y s
  | .beq x y offset => Sys2Proof.Machine.execBeq x y offset s
  | .bne x y offset => Sys2Proof.Machine.execBne x y offset s
  | .ble x y offset => Sys2Proof.Machine.execBle x y offset s
  | .bleu x y offset => Sys2Proof.Machine.execBleu x y offset s
  | .blt x y offset => Sys2Proof.Machine.execBlt x y offset s
  | .bltu x y offset => Sys2Proof.Machine.execBltu x y offset s
  | .bge x y offset => Sys2Proof.Machine.execBge x y offset s
  | .bgeu x y offset => Sys2Proof.Machine.execBgeu x y offset s
  | .bgt x y offset => Sys2Proof.Machine.execBgt x y offset s
  | .bgtu x y offset => Sys2Proof.Machine.execBgtu x y offset s
  | .j offset => Sys2Proof.Machine.execJ offset s
  | .jr dest => Sys2Proof.Machine.execJr dest s
  | .jal offset => Sys2Proof.Machine.execJal offset s
  | .jalr dest => Sys2Proof.Machine.execJalr dest s
  | .trap => Sys2Proof.Machine.execTrap s
  | .rfx => Sys2Proof.Machine.execRfx s
  | .ldw r x y => Sys2Proof.Machine.execLdw r x y s
  | .ldh r x y => Sys2Proof.Machine.execLdh r x y s
  | .ldhu r x y => Sys2Proof.Machine.execLdhu r x y s
  | .ldb r x y => Sys2Proof.Machine.execLdb r x y s
  | .ldbu r x y => Sys2Proof.Machine.execLdbu r x y s
  | .stw r x y => Sys2Proof.Machine.execStw r x y s
  | .sth r x y => Sys2Proof.Machine.execSth r x y s
  | .stb r x y => Sys2Proof.Machine.execStb r x y s
  | .mvfs r z => Sys2Proof.Machine.execMvfs r z s
  | .mvts r z => Sys2Proof.Machine.execMvts r z s
  | .tbs => Sys2Proof.Machine.execTbs s
  | .tbwr => Sys2Proof.Machine.execTbwr s
  | .tbri => Sys2Proof.Machine.execTbri s
  | .tbwi => Sys2Proof.Machine.execTbwi s

end Sys2Proof.Machine
end

