-- ==== Sys2Proof/Machine/Loop.lean ====
section
/-! DEFINITION. The turn of the execution loop: events, fetch, decode, execute, interrupt test; the reset line; loading a
program (spec 60_exceptions.md R285 to R302; 70_reset_and_hazards.md R350 to R356). -/

namespace Sys2Proof.Machine

/-! ## Interrupts -/

/-- The lines that are signalled and enabled by their IEN bit, in rising order (R285, R300). -/
def State.signalled (s : State) : List Nat :=
  (List.range 16).filter fun i => s.irq i && s.psw.ien.getLsbD i

/-- choose(A) (R285, R297): the only line of A, or the one that the parameter irq_select takes; none if A is empty.
Log 11. -/
def chooseLine (n : Nat) (a : List Nat) : Option Nat :=
  match a with
  | [] => none
  | [i] => some i
  | i :: j :: rest => some ((i :: j :: rest).getD (Config.irqSelect n a % a.length) i)

/-- The interrupt test that ends a turn (R285, R300): if PSW.IC is 1 and some line is signalled and enabled, one such
interrupt is accepted with pc as its return address. -/
def interruptTest (s : State) : State :=
  if s.psw.ic then
    match chooseLine s.draws s.signalled with
    | some i => accept (.interrupt (BitVec.ofNat 4 i)) s.pc (s.drawn 1)
    | none => s
  else s

/-! ## Events and the reset line -/

/-- The state after one event of the environment (R321, R301). Log 19, log 29. -/
def applyEvent (e : Event) (s : State) : State :=
  match e with
  | .irqLines level => s.setExtIrq level
  | .clock _ => (s.setDev (s.dev.event s.cfg e s.draws)).drawn drawBlock
  | .key _ => (s.setDev (s.dev.event s.cfg e s.draws)).drawn drawBlock
  | .received _ _ => (s.setDev (s.dev.event s.cfg e s.draws)).drawn drawBlock
  | .senderReady _ => (s.setDev (s.dev.event s.cfg e s.draws)).drawn drawBlock
  | .diskInitialized => (s.setDev (s.dev.event s.cfg e s.draws)).drawn drawBlock
  | .diskFinished _ => (s.setDev (s.dev.event s.cfg e s.draws)).drawn drawBlock
  | .diskDmarq _ => (s.setDev (s.dev.event s.cfg e s.draws)).drawn drawBlock

/-- Events in order. -/
def applyEvents (l : List Event) (s : State) : State :=
  match l with
  | [] => s
  | e :: rest => applyEvents rest (applyEvent e s)

/-- A TLB entry of which nothing is known (R46, log 20). -/
def freeEntry (n : Nat) : TlbEntry :=
  { page := Config.draw 20 n, frame := Config.draw 20 (n + 1), write := (Config.draw 8 n).getLsbD 0,
    valid := (Config.draw 8 n).getLsbD 1 }

/-- How many free values the reset of a running machine uses (log 37). -/
def resetBlock : Nat := 256

/-- The reset line asserted on a running machine (R350, R351, R46, D17): pc and PSW are set; the other registers, the TLB
and the device registers become free values; memory, configuration and the script are as before; no instruction is
executed and no bus cycle made. Log 20. -/
def resetLine (s : State) : State :=
  { s with
    regs := Vector.ofFn fun k => Config.draw 32 (s.draws + k.val)
    pc := 0xE0000000
    psw := Psw.reset
    tlbIndex := TlbIndex.ofWord (Config.draw 32 (s.draws + 31)) (Config.draw 26 (s.draws + 31))
    tlbHigh := { page := Config.draw 20 (s.draws + 128), ignored := Config.draw 12 (s.draws + 128) }
    tlbLow := { frame := Config.draw 20 (s.draws + 129), ignored := Config.draw 10 (s.draws + 129),
                write := (Config.draw 8 (s.draws + 130)).getLsbD 0, valid := (Config.draw 8 (s.draws + 130)).getLsbD 1 }
    tlbBad := Config.draw 32 (s.draws + 131)
    tlb := Vector.ofFn fun k => freeEntry (s.draws + 32 + 2 * k.val)
    rng := s.rng + 1
    dev := s.dev.afterReset (s.draws + 136)
    draws := s.draws + resetBlock }

/-! ## One turn -/

/-- The events of the turn to come. -/
def State.turnInput (s : State) : TurnInput := s.inputs.headD TurnInput.quiet

/-- A turn begins: its entry is taken off the script and the record of bus cycles starts anew. -/
def beginTurn (s : State) : State := (s.setInputs s.inputs.tail).setBus []

/-- Steps (1) to (5) of the loop (R285): fetch at pc, increment pc, decode, execute. A fetch fault is raised with the
unincremented pc as its return address (R83); an unassigned opcode is the Illegal Instruction Fault (R131). -/
def fetchAndExecute (s : State) : Result :=
  match fetch s with
  | .fault c t => .next (raise c s.pc t)
  | .done w t =>
    match decodeWord w with
    | .error _ => .next (raise .illegalInstruction s.pc (t.setPc (s.pc + 4)))
    | .ok i => exec i (t.setPc (s.pc + 4))

/-- Steps (6) and (7) of the loop: what follows a completed instruction, or an accepted fault, after which the test can
accept nothing (R287, log 33). -/
def endTurn (inp : TurnInput) (r : Result) : Result :=
  match r with
  | .next t => .next (interruptTest (applyEvents inp.after t))
  | .fault f => .fault f
  | .refused f => .refused f

/-- One turn of the execution loop (R285), or of the asserted reset line (R350). That the events of a turn whose reset line
is asserted come first and the reset after them, so that a disk action can still finish in it, is a DESIGN CHOICE (unsafe,
logs 19, 20). -/
def turn (s : State) : Result :=
  if s.turnInput.reset then
    .next (resetLine (applyEvents s.turnInput.after (applyEvents s.turnInput.before (beginTurn s))))
  else endTurn s.turnInput (fetchAndExecute (applyEvents s.turnInput.before (beginTurn s)))

/-! ## Loading -/

/-- The physical address that a fetch at pc would use, where it can use one. -/
def fetchAddress (s : State) : Option Word :=
  match checkAccess s.pc .word false s with
  | .done pa _ => some pa
  | .fault _ _ => none

/-- The word stored at the physical address that pc translates to. It stands for the loading of a program from outside
the machine (R155, R356, log 1). -/
def placeAtPc (s : State) (w : Word) : State :=
  match fetchAddress s with
  | some pa => s.setMem (Cells.putWord s.mem pa.toNat w)
  | none => s

end Sys2Proof.Machine
end

