-- ==== Sys2Proof/Machine/Step.lean ====
section
/-! DEFINITION. One step of the machine is one turn of the execution loop (spec 60_exceptions.md R285). -/

namespace Sys2Proof.Machine

/-- R285. -/
def step (s : State) : Host.Outcome State Fault Refusal := turn s

/-- s with the table row's word stored where the next fetch reads (log 1). -/
def State.withFetchWord (s : State) (nbits w : Nat) : State := placeAtPc s (BitVec.ofNat 32 (w % 2 ^ nbits))

end Sys2Proof.Machine
end

