-- ==== Sys2Proof/WellFormed.lean ====
section
/-! DEFINITION. Which instructions are valid encodings (spec 30_encoding.md R131). Register numbers, immediates and
offsets are fields of fixed width and need no check (R123). -/

namespace Sys2Proof

/-- z denotes a special-purpose register: 0 to 4, the whole 16-bit field counting (R27, R253). -/
def validSpecial (z : Half) : Bool := decide (z.toNat ≤ 4)

/-- R131: the only invalid encodings among decoded words are MVFS and MVTS with z outside 0..4. -/
def WellFormed (i : Instr) : Bool :=
  match i with
  | .add _ _ _ => true
  | .addi _ _ _ => true
  | .sub _ _ _ => true
  | .subi _ _ _ => true
  | .mul _ _ _ => true
  | .muli _ _ _ => true
  | .mulu _ _ _ => true
  | .mului _ _ _ => true
  | .div _ _ _ => true
  | .divi _ _ _ => true
  | .divu _ _ _ => true
  | .divui _ _ _ => true
  | .rem _ _ _ => true
  | .remi _ _ _ => true
  | .remu _ _ _ => true
  | .remui _ _ _ => true
  | .and _ _ _ => true
  | .andi _ _ _ => true
  | .or _ _ _ => true
  | .ori _ _ _ => true
  | .xor _ _ _ => true
  | .xori _ _ _ => true
  | .xnor _ _ _ => true
  | .xnori _ _ _ => true
  | .sll _ _ _ => true
  | .slli _ _ _ => true
  | .slr _ _ _ => true
  | .slri _ _ _ => true
  | .sar _ _ _ => true
  | .sari _ _ _ => true
  | .ldhi _ _ => true
  | .beq _ _ _ => true
  | .bne _ _ _ => true
  | .ble _ _ _ => true
  | .bleu _ _ _ => true
  | .blt _ _ _ => true
  | .bltu _ _ _ => true
  | .bge _ _ _ => true
  | .bgeu _ _ _ => true
  | .bgt _ _ _ => true
  | .bgtu _ _ _ => true
  | .j _ => true
  | .jr _ => true
  | .jal _ => true
  | .jalr _ => true
  | .trap => true
  | .rfx => true
  | .ldw _ _ _ => true
  | .ldh _ _ _ => true
  | .ldhu _ _ _ => true
  | .ldb _ _ _ => true
  | .ldbu _ _ _ => true
  | .stw _ _ _ => true
  | .sth _ _ _ => true
  | .stb _ _ _ => true
  | .mvfs _ z => validSpecial z
  | .mvts _ z => validSpecial z
  | .tbs => true
  | .tbwr => true
  | .tbri => true
  | .tbwi => true

end Sys2Proof
end

