-- ==== Sys2Proof/Safety.lean ====
section
/-! DEFINITION. The terms in which statements about the machine are made: the invariant, what an instruction leaves alone,
and the spec's own conditions on an access in words of arithmetic. -/

namespace Sys2Proof.Machine

/-! ## The invariant -/

/-- The platform stays inside the fixed map and its memories are whole words (R62). -/
def configSound (c : Config) : Bool :=
  decide (c.ramBytes ≤ 0x20000000) && decide (c.ramBytes % 4 = 0) && decide (c.romBytes ≤ 0x10000000) &&
    decide (c.romBytes % 4 = 0)

/-- The address of a byte of RAM (R62). -/
def inRam (c : Config) (a : Nat) : Bool := decide (a < 0x20000000) && decide (a < c.ramBytes)

/-- The address of a byte of ROM (R62). -/
def inRom (c : Config) (a : Nat) : Bool :=
  decide (0x20000000 ≤ a) && decide (a < 0x30000000) && decide (a < 0x20000000 + c.romBytes)

/-- What every step keeps: the platform is sound, memory is in canonical form and lists only addresses of RAM and ROM, and
every storage of a device is canonical and inside the device. -/
def State.Inv (s : State) : Prop :=
  configSound s.cfg = true ∧ Memory.wf s.mem = true ∧ Cells.within (fun a => inRam s.cfg a || inRom s.cfg a) s.mem = true ∧
    s.dev.wf = true

/-! ## Runs -/

/-- t is reached from s by k steps. -/
def Reaches (k : Nat) (s t : State) : Prop := Host.Core.run Sys2Proof.core k s = .next t

/-! ## What is left alone -/

/-- Every byte of memory reads as before. -/
def SameBytes (s t : State) : Prop := ∀ a, Memory.byte t.mem a = Memory.byte s.mem a

/-- Every general register reads as before. -/
def SameRegs (s t : State) : Prop := ∀ k : Reg, t.reg k = s.reg k

/-- Every general register reads as before but r, which reads v unless it is register 0 (R21). -/
def OnlyReg (r : Reg) (v : Word) (s t : State) : Prop :=
  ∀ k : Reg, t.reg k = if k = r ∧ k ≠ 0#5 then v else s.reg k

/-- The MMU registers S[1] to S[4] are as before. -/
def SameMmuRegs (s t : State) : Prop :=
  t.tlbIndex = s.tlbIndex ∧ t.tlbHigh = s.tlbHigh ∧ t.tlbLow = s.tlbLow ∧ t.tlbBad = s.tlbBad

/-- The TLB and the random-number generator are as before. -/
def SameTlb (s t : State) : Prop := (∀ i, t.entry i = s.entry i) ∧ t.rng = s.rng

/-- What lies outside the core is as before: memory, devices, lines, configuration, the script of inputs. -/
def SameOutside (s t : State) : Prop :=
  SameBytes s t ∧ t.dev = s.dev ∧ t.extIrq = s.extIrq ∧ t.cfg = s.cfg ∧ t.inputs = s.inputs

/-- No bus cycle was made and no free value used. -/
def Quiet (s t : State) : Prop := t.bus = s.bus ∧ t.draws = s.draws

/-- The frame of an instruction that changes general registers and pc alone: the PSW with every field, the MMU registers,
the TLB, memory, devices and the rest are as before. -/
def SameButRegsAndPc (s t : State) : Prop :=
  t.psw = s.psw ∧ SameMmuRegs s t ∧ SameTlb s t ∧ SameOutside s t ∧ Quiet s t

/-- The effect of a computation (R160): register r takes v, pc and everything else is as before. -/
def Computes (r : Reg) (v : Word) (s t : State) : Prop :=
  OnlyReg r v s t ∧ t.pc = s.pc ∧ SameButRegsAndPc s t

/-- The effect of a jump: pc takes the target, everything else is as before. -/
def JumpsTo (target : Word) (s t : State) : Prop := SameRegs s t ∧ t.pc = target ∧ SameButRegsAndPc s t

/-! ## Accesses, in the spec's words -/

/-- The alignment an access needs (R70). -/
abbrev Aligned (va : Word) (w : Width) : Prop :=
  match w with
  | .byte => True
  | .half => va.toNat % 2 = 0
  | .word => va.toNat % 4 = 0

/-- The access is not one of User Mode to a privileged address (R63, R82). -/
abbrev Permitted (s : State) (va : Word) : Prop := s.psw.uc = true → va.toNat < 0x80000000

/-- Entry i, and no other, holds the page number (R78, R81). -/
abbrev OnlyEntry (s : State) (page : Page) (i : BitVec 5) : Prop :=
  (s.entry i).page = page ∧ ∀ j, (s.entry j).page = page → j = i

/-- No entry holds the page number (R79). -/
abbrev NoEntry (s : State) (page : Page) : Prop := ∀ j, (s.entry j).page ≠ page

/-- va is mapped to pa: by subtracting 0xC0000000 in the direct-mapped space (R75), elsewhere by the one TLB entry of its
page, valid, and writable for a write (R76, R77). -/
def MapsTo (s : State) (va : Word) (isWrite : Bool) (pa : Word) : Prop :=
  (0xC0000000 ≤ va.toNat ∧ pa = va - 0xC0000000#32) ∨
  (va.toNat < 0xC0000000 ∧ ∃ i, OnlyEntry s (pageOf va) i ∧ (s.entry i).valid = true ∧
    (isWrite = true → (s.entry i).write = true) ∧ pa = (s.entry i).frame ++ va.extractLsb' 0 12)

/-- An access of va passes every check before the bus and goes to pa (R86). -/
def GoesTo (s : State) (va : Word) (w : Width) (isWrite : Bool) (pa : Word) : Prop :=
  Aligned va w ∧ Permitted s va ∧ MapsTo s va isWrite pa

/-- An access of va fails its first failing check before the bus with the given cause (R70, R78, R82, R86). -/
def FailsWith (s : State) (va : Word) (w : Width) (isWrite : Bool) (c : Cause) : Prop :=
  (¬ Aligned va w ∧ c = .illegalAddress va) ∨
  (Aligned va w ∧ ¬ Permitted s va ∧ c = .privilegedAddress va) ∨
  (Aligned va w ∧ Permitted s va ∧ va.toNat < 0xC0000000 ∧ NoEntry s (pageOf va) ∧ c = .tlbMiss va) ∨
  (Aligned va w ∧ Permitted s va ∧ va.toNat < 0xC0000000 ∧
    ∃ i, OnlyEntry s (pageOf va) i ∧
      (((s.entry i).valid = false ∧ c = .tlbInvalid va) ∨
       ((s.entry i).valid = true ∧ isWrite = true ∧ (s.entry i).write = false ∧ c = .tlbWrite va)))

/-- A physical address of RAM or ROM that answers (R62). -/
abbrev InMemory (s : State) (pa : Word) : Prop := inRam s.cfg pa.toNat = true ∨ inRom s.cfg pa.toNat = true

/-- The big-endian number of n bytes of memory from address a on (R9, R66). -/
def bigEndian (s : State) (a : Nat) : Nat → Nat
  | 0 => 0
  | n + 1 => bigEndian s a n * 256 + (Memory.byte s.mem (a + n)).toNat

/-- The bus cycle of a read that is answered (R92). -/
def readCycle (pa : Word) (w : Width) : BusCycle :=
  { write := false, size := w, addr := pa, data := 0, answered := true }

/-- The bus cycle of a write that is answered (R93). -/
def writeCycle (pa : Word) (w : Width) (v : Word) : BusCycle :=
  { write := true, size := w, addr := pa, data := carried w v, answered := true }

/-- The frame of a load of RAM or ROM: one bus cycle, register r, nothing else (R242). -/
def Loads (r : Reg) (v : Word) (c : BusCycle) (s t : State) : Prop :=
  OnlyReg r v s t ∧ t.pc = s.pc ∧ t.psw = s.psw ∧ SameMmuRegs s t ∧ SameTlb s t ∧ SameOutside s t ∧
    t.bus = s.bus ++ [c] ∧ t.draws = s.draws

/-- The frame of an access that reaches a device: everything but the devices, the record of bus cycles and the counter of
free values is as before, but for general register r, which takes v. -/
def OnlyRegAndDevices (r : Reg) (v : Word) (s t : State) : Prop :=
  OnlyReg r v s t ∧ t.pc = s.pc ∧ t.psw = s.psw ∧ SameMmuRegs s t ∧ SameTlb s t ∧ SameBytes s t ∧ t.extIrq = s.extIrq ∧
    t.cfg = s.cfg ∧ t.inputs = s.inputs

/-- The platform has a device of this kind in a window of 1 MB at base, as R105 gives the demonstration project's devices. -/
def HasDevice (c : Config) (kind : DeviceKind) (base : Nat) : Prop :=
  ∀ pa : Word, base ≤ pa.toNat → pa.toNat < base + 0x100000 →
    windowOf c pa = some { base := base, size := 0x100000, kind := kind }

/-- A word read of the physical address pa answers v and leaves the devices d. -/
def DeviceReads (s : State) (pa : Word) (v : Word) (d : Devices) : Prop :=
  ∃ t, busRead pa .word s = .done v t ∧ t.dev = d ∧ OnlyRegAndDevices 0#5 0 s t ∧ t.bus = s.bus ++ [readCycle pa .word]

/-- A word write of v to the physical address pa completes and leaves the devices d. -/
def DeviceWrites (s : State) (pa : Word) (v : Word) (d : Devices) : Prop :=
  ∃ k t, busWrite pa .word v s = .done k t ∧ t.dev = d ∧ OnlyRegAndDevices 0#5 0 s t ∧
    t.bus = s.bus ++ [writeCycle pa .word v]

/-- Two device states that agree on every device but the one that register d belongs to. -/
def SameOtherDevices (d : DevReg) (a b : Devices) : Prop :=
  match d with
  | .timerControl => b = { a with timer := b.timer }
  | .timerDivisor => b = { a with timer := b.timer }
  | .displayCell _ => b = { a with display := b.display }
  | .keyboardControl => b = { a with keyboard := b.keyboard }
  | .keyboardData => b = { a with keyboard := b.keyboard }
  | .receiverControl k => b = if k then { a with term2 := b.term2 } else { a with term1 := b.term1 }
  | .receiverData k => b = if k then { a with term2 := b.term2 } else { a with term1 := b.term1 }
  | .senderControl k => b = if k then { a with term2 := b.term2 } else { a with term1 := b.term1 }
  | .senderData k => b = if k then { a with term2 := b.term2 } else { a with term1 := b.term1 }
  | .diskControl => b = { a with disk := b.disk }
  | .diskCount => b = { a with disk := b.disk }
  | .diskSector => b = { a with disk := b.disk }
  | .diskCapacity => b = { a with disk := b.disk }
  | .diskBuffer _ => b = { a with disk := b.disk }
  | .other => b = a

/-! ## Exceptions, in the spec's words -/

/-- The number that an accepted exception loads into PSW.EID (R282). -/
def eidNumber : Cause → Nat
  | .interrupt line => line.toNat
  | .busTimeout => 16
  | .illegalInstruction => 17
  | .privilegedInstruction => 18
  | .divisionByZero => 19
  | .trap => 20
  | .tlbMiss _ => 21
  | .tlbWrite _ => 22
  | .tlbInvalid _ => 23
  | .illegalAddress _ => 24
  | .privilegedAddress _ => 25

/-- The faulting address of the five address faults (R80). -/
def faultingAddress : Cause → Option Word
  | .tlbMiss va => some va
  | .tlbWrite va => some va
  | .tlbInvalid va => some va
  | .illegalAddress va => some va
  | .privilegedAddress va => some va
  | .interrupt _ => none
  | .busTimeout => none
  | .illegalInstruction => none
  | .privilegedInstruction => none
  | .divisionByZero => none
  | .trap => none

/-- The offset of the service address from its base (R291): 8 for a User Space TLB Miss, 4 for everything else. -/
def serviceOffset : Cause → Word
  | .tlbMiss va => if va.toNat < 0x80000000 then 8 else 4
  | _ => 4

/-- Steps (1) to (5) of the acceptance (R290, R291), with everything they leave alone but S[2], S[4] and the counter of
free values, which a fault may have written before (R80). -/
def Accepted (c : Cause) (ret : Word) (s t : State) : Prop :=
  OnlyReg 30 ret s t ∧
  t.psw.io = s.psw.ip ∧ t.psw.ip = s.psw.ic ∧ t.psw.ic = false ∧
  t.psw.uo = s.psw.up ∧ t.psw.up = s.psw.uc ∧ t.psw.uc = false ∧
  t.psw.eid.toNat = eidNumber c ∧ t.psw.v = s.psw.v ∧ t.psw.ien = s.psw.ien ∧ t.psw.ignored = s.psw.ignored ∧
  (t.pc.toNat =
    (if s.psw.v then 0xC0000000 else 0xE0000000) +
      (match c with
       | .tlbMiss va => if va.toNat < 0x80000000 then 8 else 4
       | _ => 4)) ∧
  t.tlbIndex = s.tlbIndex ∧ t.tlbLow = s.tlbLow ∧ SameTlb s t ∧ SameOutside s t ∧ t.bus = s.bus

/-- What an exception writes into S[4] and S[2] before it is accepted (R80): the faulting address after the five address
faults, the faulting page number after the three TLB faults. -/
def AddressNoted (c : Cause) (s t : State) : Prop :=
  match c with
  | .illegalAddress va => t.tlbBad = va ∧ t.tlbHigh = s.tlbHigh
  | .privilegedAddress va => t.tlbBad = va ∧ t.tlbHigh = s.tlbHigh
  | .tlbMiss va => t.tlbBad = va ∧ t.tlbHigh.page.toNat = va.toNat / 4096
  | .tlbInvalid va => t.tlbBad = va ∧ t.tlbHigh.page.toNat = va.toNat / 4096
  | .tlbWrite va => t.tlbBad = va ∧ t.tlbHigh.page.toNat = va.toNat / 4096
  | _ => t.tlbBad = s.tlbBad ∧ t.tlbHigh = s.tlbHigh

/-- The exception c is taken with the given return address. -/
def Takes (c : Cause) (ret : Word) (s t : State) : Prop := Accepted c ret s t ∧ AddressNoted c s t

end Sys2Proof.Machine
end

