-- ==== Sys2Proof/Certificates/Slice0/Obligations.lean ====
section
/-! DEFINITION. The statements for the provers. Each docstring names the rules of spec/ that the statement formalises. -/

open Sys2Proof Sys2Proof.Machine

/-! ## Encoding -/

/-- R133: encoding is the inverse of decoding. Every instruction, with every value of every field, is read back from its
word, and from its bytes whatever follows them. -/
def Obligations.EncodeThenDecodeGivesTheInstruction : Prop :=
  ∀ i : Instr, decodeWord (encode i) = .ok i ∧ ∀ rest, decode (encodeBytes i ++ rest) = .ok (i, rest)

/-- R122, R133: a decoded instruction holds every bit of its word but the ignored ones. -/
def Obligations.DecodedWordKeepsAllButIgnoredBits : Prop :=
  ∀ (w : Word) (i : Instr), decodeWord w = .ok i → encode i = w &&& careMask (opcodeOf w)

/-- R124: ignored bits have no effect, the validity of a word depends on its opcode alone, and of the immediate of SLLI,
SLRI and SARI only bits 4..0 count. -/
def Obligations.IgnoredBitsHaveNoEffect : Prop :=
  (∀ w v : Word, w &&& careMask (opcodeOf w) = v &&& careMask (opcodeOf w) → decodeWord w = decodeWord v) ∧
  (∀ w v : Word, opcodeOf w = opcodeOf v → (decodeWord w).isOk = (decodeWord v).isOk) ∧
  (∀ (r x : Reg) (y z : Half) (s : State), y.toNat % 32 = z.toNat % 32 →
    exec (.slli r x y) s = exec (.slli r x z) s ∧ exec (.slri r x y) s = exec (.slri r x z) s ∧
    exec (.sari r x y) s = exec (.sari r x z) s)

/-- R131: the opcodes 0x1E, 0x3E and 0x3F, and no others, are rejected; a word with one of them, fetched from wherever it
can be fetched, takes the Illegal Instruction Fault with its own address as the return address, and so does the step that
fetches it; the only other invalid encodings are MVFS and MVTS with z above 4, which take the same fault after the
privilege check. Where the events of the step land is the model's choice (log 19), and that the interrupt test is made
after the fault too is deduced (R285 returns; log 33). -/
def Obligations.InvalidEncodingsTakeIllegalInstruction : Prop :=
  (∀ w : Word, (∃ e, decodeWord w = .error e) ↔ (opcodeOf w).toNat ∈ [0x1E, 0x3E, 0x3F]) ∧
  (∀ (s u : State) (w : Word), fetch s = .done w u → (opcodeOf w).toNat ∈ [0x1E, 0x3E, 0x3F] →
    ∃ t, fetchAndExecute s = .next t ∧ Takes .illegalInstruction s.pc u t ∧ t.draws = u.draws) ∧
  (∀ (s u v : State) (w : Word), s.turnInput.reset = false → u = applyEvents s.turnInput.before (beginTurn s) →
    fetch u = .done w v → (opcodeOf w).toNat ∈ [0x1E, 0x3E, 0x3F] →
    ∃ t, step s = endTurn s.turnInput (.next t) ∧ Takes .illegalInstruction s.pc v t ∧ t.draws = v.draws) ∧
  (∀ i : Instr, WellFormed i = false ↔ ∃ r z, 4 < z.toNat ∧ (i = .mvfs r z ∨ i = .mvts r z)) ∧
  (∀ (i : Instr) (s : State), WellFormed i = false → ∃ t, exec i s = .next t ∧ t.draws = s.draws ∧
    Takes (if s.psw.uc then .privilegedInstruction else .illegalInstruction) (s.pc - 4) s t)

/-- R130, R122, R128, R132 (words of 95_test_vectors.md V1 and V2, written out from the formats): a sanity check of the
decoder. -/
def Obligations.WordsOfTheSpecDecode : Prop :=
  decodeWord 0x00221800 = .ok (.add 3 1 2) ∧ decodeWord 0x24238001 = .ok (.divi 3 1 0x8001) ∧
  decodeWord 0x7FE38001 = .ok (.ldhi 3 0x8001) ∧ decodeWord 0x9022FFFE = .ok (.blt 1 2 0xFFFE) ∧
  decodeWord 0xB2000001 = .ok (.jal 0x2000001) ∧ decodeWord 0xB7FFFFFF = .ok (.jalr 31) ∧
  decodeWord 0xBBFFFFFF = .ok .trap ∧ decodeWord 0xD8238001 = .ok (.sth 3 1 0x8001) ∧
  decodeWord 0xE3E30002 = .ok (.mvfs 3 2) ∧ decodeWord 0xF4000000 = .ok .tbwi

/-! ## Memory and the bus -/

/-- R67 (mixed-width accesses see exactly the bytes of R66, and a write changes only its own bytes). The premise is the
canonical form, which every step keeps (StepKeepsTheInvariant). -/
def Obligations.StoredBytesAreSeenAtEveryWidth : Prop :=
  ∀ (m : Memory) (a : Nat) (v : Word), Memory.wf m = true →
    (let n := Memory.write m a .word v
     Memory.byte n a = v.extractLsb' 24 8 ∧ Memory.byte n (a + 1) = v.extractLsb' 16 8 ∧
     Memory.byte n (a + 2) = v.extractLsb' 8 8 ∧ Memory.byte n (a + 3) = v.extractLsb' 0 8 ∧
     Memory.read n a .half = (v.extractLsb' 16 16).setWidth 32 ∧
     Memory.read n (a + 2) .half = (v.extractLsb' 0 16).setWidth 32 ∧ Memory.read n a .word = v) ∧
    (let n := Memory.write m a .half v
     Memory.byte n a = v.extractLsb' 8 8 ∧ Memory.byte n (a + 1) = v.extractLsb' 0 8 ∧
     Memory.read n a .half = (v.extractLsb' 0 16).setWidth 32) ∧
    (let n := Memory.write m a .byte v
     Memory.byte n a = v.extractLsb' 0 8 ∧ Memory.read n a .byte = (v.extractLsb' 0 8).setWidth 32) ∧
    (∀ (k : Width) (b : Nat), b < a ∨ a + k.bytes ≤ b →
      Memory.byte (Memory.write m a k v) b = Memory.byte m b)

/-- R62, R94, R95: nothing answers at a physical address of 0x40000000 and up, whatever the platform: an access of any
width ends in a Bus Timeout, writes no byte and changes no device. -/
def Obligations.NothingAnswersAboveTheMap : Prop :=
  ∀ (s : State) (pa v : Word) (w : Width), 0x40000000 ≤ pa.toNat →
    (∃ t, busRead pa w s = .fault .busTimeout t ∧ SameOutside s t ∧ SameRegs s t ∧ t.pc = s.pc ∧ t.psw = s.psw) ∧
    (∃ t, busWrite pa w v s = .fault .busTimeout t ∧ SameOutside s t ∧ SameRegs s t ∧ t.pc = s.pc ∧ t.psw = s.psw)

/-! ## Translation -/

/-- R75: a direct-mapped address is translated by subtracting 0xC0000000, for reads and writes alike, whatever the TLB
holds. -/
def Obligations.DirectMappingSubtractsTheBase : Prop :=
  ∀ (s : State) (va : Word) (isWrite : Bool) (tlb : Vector TlbEntry 32), 0xC0000000 ≤ va.toNat →
    Machine.translate va isWrite { s with tlb := tlb } = .done (va - 0xC0000000#32) { s with tlb := tlb } ∧
    (va - 0xC0000000#32).toNat = va.toNat - 0xC0000000

/-- R77, R78, R79: below 0xC0000000 the entry of the page decides: no entry a TLB Miss, an invalid one a TLB Invalid
Fault, a write to a write-protected page a TLB Write Fault, and otherwise frame and page offset. Nothing is changed. -/
def Obligations.TranslationFollowsTheTlb : Prop :=
  ∀ (s : State) (va : Word) (isWrite : Bool), va.toNat < 0xC0000000 →
    (NoEntry s (pageOf va) → Machine.translate va isWrite s = .fault (.tlbMiss va) s) ∧
    (∀ i, OnlyEntry s (pageOf va) i →
      ((s.entry i).valid = false → Machine.translate va isWrite s = .fault (.tlbInvalid va) s) ∧
      ((s.entry i).valid = true → isWrite = true → (s.entry i).write = false →
        Machine.translate va isWrite s = .fault (.tlbWrite va) s) ∧
      ((s.entry i).valid = true → (isWrite = true → (s.entry i).write = true) →
        ∃ pa, Machine.translate va isWrite s = .done pa s ∧
          pa.toNat = (s.entry i).frame.toNat * 4096 + va.toNat % 4096))

/-- R81 and the model's choice of log 9 (a free value instead of a refusal): where two entries hold the page, translation
still answers, either one of the three TLB faults or an address in the page's offset, and changes nothing but the counter
of free values. -/
def Obligations.DuplicatePagesGiveSomeMapping : Prop :=
  ∀ (s : State) (va : Word) (isWrite : Bool) (i j : BitVec 5), va.toNat < 0xC0000000 → i ≠ j →
    (s.entry i).page = pageOf va → (s.entry j).page = pageOf va →
    (∃ pa, Machine.translate va isWrite s = .done pa (s.drawn 1) ∧ pa.toNat % 4096 = va.toNat % 4096) ∨
    (∃ c, (c = .tlbMiss va ∨ c = .tlbInvalid va ∨ (isWrite = true ∧ c = .tlbWrite va)) ∧
      Machine.translate va isWrite s = .fault c (s.drawn 1))

/-- R86: the first failing check of an access decides its fault: alignment, privilege, TLB search, valid flag, write flag,
and last the bus. -/
def Obligations.ChecksAreMadeInOrder : Prop :=
  ∀ (s : State) (va v : Word) (w : Width),
    (∀ c, FailsWith s va w false c → memRead va w s = .fault c s) ∧
    (∀ c, FailsWith s va w true c → memWrite va w v s = .fault c s) ∧
    (∀ pa, GoesTo s va w false pa → select s.cfg pa = .nothing →
      memRead va w s = .fault .busTimeout (s.addCycle { readCycle pa w with answered := false })) ∧
    (∀ pa, GoesTo s va w true pa → select s.cfg pa = .nothing →
      memWrite va w v s = .fault .busTimeout (s.addCycle { writeCycle pa w v with answered := false }))

/-! ## Exceptions -/

/-- R290, R291, R282, R80: raising any exception writes S[4] and S[2] as its kind says, x[30], both PSW stacks, EID and pc,
and leaves everything else alone. -/
def Obligations.RaisingTakesTheException : Prop :=
  ∀ (c : Cause) (ret : Word) (s : State), Takes c ret s (raise c ret s)

/-- R305, R252: two acceptances, the second inside the first, are undone by two returns: the privilege mode and interrupt
enable of the interrupted program are back. -/
def Obligations.TwoReturnsUndoTwoExceptions : Prop :=
  ∀ (c d : Cause) (ret ret' : Word) (s t u : State),
    exec .rfx (raise d ret' (raise c ret s)) = .next t → exec .rfx t = .next u →
    t.psw.uc = false ∧ t.psw.ic = false ∧ t.pc = ret' ∧ u.psw.uc = s.psw.uc ∧ u.psw.ic = s.psw.ic

/-! ## Computation instructions -/

/-- R164 to R167: sums and differences, truncated to 32 bits; nothing but the destination changes. -/
def Obligations.SumsAndDifferencesAreTruncated : Prop :=
  ∀ (s : State) (r x : Reg),
    (∀ y : Reg, ∃ t v, exec (.add r x y) s = .next t ∧ Computes r v s t ∧
      v = BitVec.ofInt 32 ((s.reg x).toInt + (s.reg y).toInt)) ∧
    (∀ y : Half, ∃ t v, exec (.addi r x y) s = .next t ∧ Computes r v s t ∧
      v = BitVec.ofInt 32 ((s.reg x).toInt + y.toInt)) ∧
    (∀ y : Reg, ∃ t v, exec (.sub r x y) s = .next t ∧ Computes r v s t ∧
      v = BitVec.ofInt 32 ((s.reg x).toInt - (s.reg y).toInt)) ∧
    (∀ y : Half, ∃ t v, exec (.subi r x y) s = .next t ∧ Computes r v s t ∧
      v = BitVec.ofInt 32 ((s.reg x).toInt - y.toInt))

/-- R168 to R171, R161: products modulo 2^32; MUL and MULU give the same 32 bits; MULI sign-extends, MULUI zero-extends. -/
def Obligations.ProductsAreTruncated : Prop :=
  ∀ (s : State) (r x : Reg),
    (∀ y : Reg, ∃ t v, exec (.mul r x y) s = .next t ∧ exec (.mulu r x y) s = .next t ∧ Computes r v s t ∧
      v.toNat = (s.reg x).toNat * (s.reg y).toNat % 2 ^ 32 ∧
      v = BitVec.ofInt 32 ((s.reg x).toInt * (s.reg y).toInt)) ∧
    (∀ y : Half, ∃ t v, exec (.muli r x y) s = .next t ∧ Computes r v s t ∧
      v = BitVec.ofInt 32 ((s.reg x).toInt * y.toInt)) ∧
    (∀ y : Half, ∃ t v, exec (.mului r x y) s = .next t ∧ Computes r v s t ∧
      v.toNat = (s.reg x).toNat * y.toNat % 2 ^ 32)

/-- R162, R172, R173, R176, R177 (signed division by a divisor that is not 0): dividend = quotient * divisor + remainder
with |remainder| < |divisor|; the remainder has the sign of the dividend with the spec's rounding, that of the divisor
with the other value of sdiv_rounding (R7, D1, log 12). That 0x80000000 divided by -1 is no exception to this (quotient
truncated to 0x80000000, remainder 0, no fault) is the spec's decision D2 (log 13). -/
def Obligations.SignedDivisionGivesQuotientAndRemainder : Prop :=
  ∀ (s : State) (r x : Reg) (a b q m : Int), b ≠ 0 → a = (s.reg x).toInt → a = q * b + m → m.natAbs < b.natAbs →
    (s.cfg.sdivRounding = .trunc → 0 ≤ a * m) → (s.cfg.sdivRounding = .floor → 0 ≤ b * m) →
    (∀ y : Reg, (s.reg y).toInt = b →
      (∃ t, exec (.div r x y) s = .next t ∧ Computes r (BitVec.ofInt 32 q) s t) ∧
      (∃ t, exec (.rem r x y) s = .next t ∧ Computes r (BitVec.ofInt 32 m) s t)) ∧
    (∀ y : Half, y.toInt = b →
      (∃ t, exec (.divi r x y) s = .next t ∧ Computes r (BitVec.ofInt 32 q) s t) ∧
      (∃ t, exec (.remi r x y) s = .next t ∧ Computes r (BitVec.ofInt 32 m) s t))

/-- R162, R174, R175, R178, R179: unsigned division by a divisor that is not 0. -/
def Obligations.UnsignedDivisionGivesQuotientAndRemainder : Prop :=
  ∀ (s : State) (r x : Reg) (b q m : Nat), (s.reg x).toNat = q * b + m → m < b →
    (∀ y : Reg, (s.reg y).toNat = b →
      (∃ t, exec (.divu r x y) s = .next t ∧ Computes r (BitVec.ofNat 32 q) s t) ∧
      (∃ t, exec (.remu r x y) s = .next t ∧ Computes r (BitVec.ofNat 32 m) s t)) ∧
    (∀ y : Half, y.toNat = b →
      (∃ t, exec (.divui r x y) s = .next t ∧ Computes r (BitVec.ofNat 32 q) s t) ∧
      (∃ t, exec (.remui r x y) s = .next t ∧ Computes r (BitVec.ofNat 32 m) s t))

/-- R163: all eight divisions by zero take the Division by Zero Fault at the dividing instruction, the destination
unwritten (it is register 30 that the acceptance writes). -/
def Obligations.DivisionByZeroFaults : Prop :=
  ∀ (s : State) (r x : Reg), ∃ t, Takes .divisionByZero (s.pc - 4) s t ∧ t.draws = s.draws ∧
    (∀ y : Reg, s.reg y = 0 → exec (.div r x y) s = .next t ∧ exec (.divu r x y) s = .next t ∧
      exec (.rem r x y) s = .next t ∧ exec (.remu r x y) s = .next t) ∧
    exec (.divi r x 0) s = .next t ∧ exec (.divui r x 0) s = .next t ∧ exec (.remi r x 0) s = .next t ∧
    exec (.remui r x 0) s = .next t

/-- R180 to R187: the logic instructions bit by bit; an immediate has zeros in bits 31..16. -/
def Obligations.LogicIsBitwise : Prop :=
  ∀ (s : State) (r x : Reg),
    (∀ y : Reg,
      (∃ t v, exec (.and r x y) s = .next t ∧ Computes r v s t ∧
        ∀ i < 32, v.getLsbD i = ((s.reg x).getLsbD i && (s.reg y).getLsbD i)) ∧
      (∃ t v, exec (.or r x y) s = .next t ∧ Computes r v s t ∧
        ∀ i < 32, v.getLsbD i = ((s.reg x).getLsbD i || (s.reg y).getLsbD i)) ∧
      (∃ t v, exec (.xor r x y) s = .next t ∧ Computes r v s t ∧
        ∀ i < 32, v.getLsbD i = Bool.xor ((s.reg x).getLsbD i) ((s.reg y).getLsbD i)) ∧
      (∃ t v, exec (.xnor r x y) s = .next t ∧ Computes r v s t ∧
        ∀ i < 32, v.getLsbD i = !Bool.xor ((s.reg x).getLsbD i) ((s.reg y).getLsbD i))) ∧
    (∀ y : Half,
      (∃ t v, exec (.andi r x y) s = .next t ∧ Computes r v s t ∧
        ∀ i < 32, v.getLsbD i = ((s.reg x).getLsbD i && (decide (i < 16) && y.getLsbD i))) ∧
      (∃ t v, exec (.ori r x y) s = .next t ∧ Computes r v s t ∧
        ∀ i < 32, v.getLsbD i = ((s.reg x).getLsbD i || (decide (i < 16) && y.getLsbD i))) ∧
      (∃ t v, exec (.xori r x y) s = .next t ∧ Computes r v s t ∧
        ∀ i < 32, v.getLsbD i = Bool.xor ((s.reg x).getLsbD i) (decide (i < 16) && y.getLsbD i)) ∧
      (∃ t v, exec (.xnori r x y) s = .next t ∧ Computes r v s t ∧
        ∀ i < 32, v.getLsbD i = !Bool.xor ((s.reg x).getLsbD i) (decide (i < 16) && y.getLsbD i)))

/-- R188 to R193: the shifts bit by bit, the count being the 5 low bits of the second operand. -/
def Obligations.ShiftsMoveBitsByTheLowFiveBits : Prop :=
  ∀ (s : State) (r x : Reg),
    (∀ y : Reg, let n := (s.reg y).toNat % 32
      (∃ t v, exec (.sll r x y) s = .next t ∧ Computes r v s t ∧
        ∀ i < 32, v.getLsbD i = if n ≤ i then (s.reg x).getLsbD (i - n) else false) ∧
      (∃ t v, exec (.slr r x y) s = .next t ∧ Computes r v s t ∧
        ∀ i < 32, v.getLsbD i = if i + n < 32 then (s.reg x).getLsbD (i + n) else false) ∧
      (∃ t v, exec (.sar r x y) s = .next t ∧ Computes r v s t ∧
        ∀ i < 32, v.getLsbD i = if i + n < 32 then (s.reg x).getLsbD (i + n) else (s.reg x).getLsbD 31)) ∧
    (∀ y : Half, let n := y.toNat % 32
      (∃ t v, exec (.slli r x y) s = .next t ∧ Computes r v s t ∧
        ∀ i < 32, v.getLsbD i = if n ≤ i then (s.reg x).getLsbD (i - n) else false) ∧
      (∃ t v, exec (.slri r x y) s = .next t ∧ Computes r v s t ∧
        ∀ i < 32, v.getLsbD i = if i + n < 32 then (s.reg x).getLsbD (i + n) else false) ∧
      (∃ t v, exec (.sari r x y) s = .next t ∧ Computes r v s t ∧
        ∀ i < 32, v.getLsbD i = if i + n < 32 then (s.reg x).getLsbD (i + n) else (s.reg x).getLsbD 31))

/-- R194, R183, R125: LDHI places its immediate in bits 31..16; with ORI it builds every constant, the idiom that R125
derives from R194 and R183 (no rule of its own). -/
def Obligations.LdhiAndOriBuildEveryConstant : Prop :=
  ∀ (s : State) (r : Reg) (y : Half),
    (∃ t v, exec (.ldhi r y) s = .next t ∧ Computes r v s t ∧ v.toNat = y.toNat * 65536) ∧
    (∀ c : Word, r ≠ 0#5 → ∃ t u, exec (.ldhi r (c.extractLsb' 16 16)) s = .next t ∧
      exec (.ori r r (c.extractLsb' 0 16)) t = .next u ∧ u.reg r = c)

/-! ## Control flow -/

/-- R203 to R212, R126, R200: each branch is taken exactly on its condition, to pc + 4 * offset; not taken it changes
nothing. That the target is modulo 2^32 is the spec's decision D4 (R202 e; log 14). -/
def Obligations.BranchesFollowTheirConditions : Prop :=
  ∀ (s : State) (x y : Reg) (offset : Half),
    let a := s.reg x
    let b := s.reg y
    ∃ t, JumpsTo (BitVec.ofInt 32 (s.pc.toInt + 4 * offset.toInt)) s t ∧
      exec (.beq x y offset) s = .next (if a = b then t else s) ∧
      exec (.bne x y offset) s = .next (if a = b then s else t) ∧
      exec (.ble x y offset) s = .next (if a.toInt ≤ b.toInt then t else s) ∧
      exec (.bleu x y offset) s = .next (if a.toNat ≤ b.toNat then t else s) ∧
      exec (.blt x y offset) s = .next (if a.toInt < b.toInt then t else s) ∧
      exec (.bltu x y offset) s = .next (if a.toNat < b.toNat then t else s) ∧
      exec (.bge x y offset) s = .next (if a.toInt < b.toInt then s else t) ∧
      exec (.bgeu x y offset) s = .next (if a.toNat < b.toNat then s else t) ∧
      exec (.bgt x y offset) s = .next (if a.toInt ≤ b.toInt then s else t) ∧
      exec (.bgtu x y offset) s = .next (if a.toNat ≤ b.toNat then s else t)

/-- R213 to R216: the jumps. JAL and JALR write x[31]; JALR reads its target before it writes x[31]. That the targets of J
and JAL are modulo 2^32 is the spec's decision D4 (R202 e; log 14). -/
def Obligations.JumpsWriteThePcAndTheLink : Prop :=
  ∀ s : State,
    (∀ offset : BitVec 26,
      (∃ t, exec (.j offset) s = .next t ∧ JumpsTo (BitVec.ofInt 32 (s.pc.toInt + 4 * offset.toInt)) s t) ∧
      (∃ t, exec (.jal offset) s = .next t ∧ OnlyReg 31 s.pc s t ∧
        t.pc = BitVec.ofInt 32 (s.pc.toInt + 4 * offset.toInt) ∧ SameButRegsAndPc s t)) ∧
    (∀ dest : Reg,
      (∃ t, exec (.jr dest) s = .next t ∧ JumpsTo (s.reg dest) s t) ∧
      (∃ t, exec (.jalr dest) s = .next t ∧ OnlyReg 31 s.pc s t ∧ t.pc = s.reg dest ∧ SameButRegsAndPc s t))

/-! ## Loads and stores -/

/-- R231 to R237: the five loads of RAM and ROM read the big-endian bytes at the address that R_x + signext32(y) is mapped
to, sign- or zero-extended; one bus cycle, the destination register, and nothing else. That the sum is modulo 2^32 is the
spec's decision D4 (log 14), for every statement with dataAddress. -/
def Obligations.LoadsReadMemory : Prop :=
  ∀ (s : State) (r x : Reg) (y : Half) (pa : Word), InMemory s pa →
    (GoesTo s (dataAddress x y s) .word false pa →
      ∃ t, exec (.ldw r x y) s = .next t ∧
        Loads r (BitVec.ofNat 32 (bigEndian s pa.toNat 4)) (readCycle pa .word) s t) ∧
    (GoesTo s (dataAddress x y s) .half false pa →
      (∃ t, exec (.ldh r x y) s = .next t ∧
        Loads r ((BitVec.ofNat 16 (bigEndian s pa.toNat 2)).signExtend 32) (readCycle pa .half) s t) ∧
      (∃ t, exec (.ldhu r x y) s = .next t ∧
        Loads r (BitVec.ofNat 32 (bigEndian s pa.toNat 2)) (readCycle pa .half) s t)) ∧
    (GoesTo s (dataAddress x y s) .byte false pa →
      (∃ t, exec (.ldb r x y) s = .next t ∧
        Loads r ((BitVec.ofNat 8 (bigEndian s pa.toNat 1)).signExtend 32) (readCycle pa .byte) s t) ∧
      (∃ t, exec (.ldbu r x y) s = .next t ∧
        Loads r (BitVec.ofNat 32 (bigEndian s pa.toNat 1)) (readCycle pa .byte) s t))

/-- R231, R232, R238 to R240, R66, R93: the three stores to RAM write the low bytes of R_r big-endian at the mapped
address, and no other byte, no register and nothing else but the record of the bus cycle. -/
def Obligations.StoresWriteRam : Prop :=
  ∀ (s : State) (r x : Reg) (y : Half) (pa : Word), Memory.wf s.mem = true → inRam s.cfg pa.toNat = true →
    let frame := fun (w : Width) (t : State) =>
      SameRegs s t ∧ t.pc = s.pc ∧ t.psw = s.psw ∧ SameMmuRegs s t ∧ SameTlb s t ∧ t.dev = s.dev ∧ t.extIrq = s.extIrq ∧
      t.cfg = s.cfg ∧ t.inputs = s.inputs ∧ t.draws = s.draws ∧ t.bus = s.bus ++ [writeCycle pa w (s.reg r)] ∧
      bigEndian t pa.toNat w.bytes = (s.reg r).toNat % 256 ^ w.bytes ∧
      ∀ b, b < pa.toNat ∨ pa.toNat + w.bytes ≤ b → Memory.byte t.mem b = Memory.byte s.mem b
    (GoesTo s (dataAddress x y s) .word true pa → ∃ t, exec (.stw r x y) s = .next t ∧ frame .word t) ∧
    (GoesTo s (dataAddress x y s) .half true pa → ∃ t, exec (.sth r x y) s = .next t ∧ frame .half t) ∧
    (GoesTo s (dataAddress x y s) .byte true pa → ∃ t, exec (.stb r x y) s = .next t ∧ frame .byte t)

/-- R67, R242 d, R99: whatever a store does (RAM, ROM, a device, a fault, a duplicated page), memory changes at most in the
bytes of the access at the address that its checks give, and not at all where they fail. For a duplicated page and for a
half-word or byte of a device the spec gives no outcome (R81, R98): that memory is then left alone too is the model's choice
(logs 9, 15). -/
def Obligations.StoresChangeOnlyTheirBytes : Prop :=
  ∀ (s t : State) (r x : Reg) (y : Half) (w : Width) (i : Instr), Memory.wf s.mem = true →
    (i = .stw r x y ∧ w = .word ∨ i = .sth r x y ∧ w = .half ∨ i = .stb r x y ∧ w = .byte) → exec i s = .next t →
    (∀ pa u, checkAccess (dataAddress x y s) w true s = .done pa u →
      ∀ b, b < pa.toNat ∨ pa.toNat + w.bytes ≤ b → Memory.byte t.mem b = Memory.byte s.mem b) ∧
    (∀ c u, checkAccess (dataAddress x y s) w true s = .fault c u → SameBytes s t)

/-- R99, D9, the model's parameter of log 16: a store to ROM either completes with no effect or takes a Bus Timeout; ROM
never changes. -/
def Obligations.StoresLeaveRomAlone : Prop :=
  ∀ (s : State) (r x : Reg) (y : Half) (pa : Word) (w : Width) (i : Instr),
    (i = .stw r x y ∧ w = .word ∨ i = .sth r x y ∧ w = .half ∨ i = .stb r x y ∧ w = .byte) →
    inRom s.cfg pa.toNat = true → GoesTo s (dataAddress x y s) w true pa →
    (s.cfg.romWrite = .ignored → exec i s = .next (s.addCycle (writeCycle pa w (s.reg r)))) ∧
    (s.cfg.romWrite = .unanswered → ∃ t, exec i s = .next t ∧
      Takes .busTimeout (s.pc - 4) (s.addCycle { writeCycle pa w (s.reg r) with answered := false }) t)

/-- R242 c, d, R80, R86: a load or store whose access fails a check takes that exception at its own address: no register but
x[30], no byte, no bus cycle. -/
def Obligations.FailedAccessesTakeTheirFault : Prop :=
  ∀ (s : State) (r x : Reg) (y : Half) (c : Cause) (i : Instr),
    ((i = .ldw r x y ∧ FailsWith s (dataAddress x y s) .word false c) ∨
     ((i = .ldh r x y ∨ i = .ldhu r x y) ∧ FailsWith s (dataAddress x y s) .half false c) ∨
     ((i = .ldb r x y ∨ i = .ldbu r x y) ∧ FailsWith s (dataAddress x y s) .byte false c) ∨
     (i = .stw r x y ∧ FailsWith s (dataAddress x y s) .word true c) ∨
     (i = .sth r x y ∧ FailsWith s (dataAddress x y s) .half true c) ∨
     (i = .stb r x y ∧ FailsWith s (dataAddress x y s) .byte true c)) →
    ∃ t, exec i s = .next t ∧ Takes c (s.pc - 4) s t

/-- R95, R242 c: a load or store that no device answers takes a Bus Timeout at its own address. -/
def Obligations.UnansweredAccessesTakeBusTimeout : Prop :=
  ∀ (s : State) (r x : Reg) (y : Half) (pa : Word) (w : Width) (i : Instr), select s.cfg pa = .nothing →
    ((i = .ldw r x y ∧ w = .word ∨ (i = .ldh r x y ∨ i = .ldhu r x y) ∧ w = .half ∨
      (i = .ldb r x y ∨ i = .ldbu r x y) ∧ w = .byte) → GoesTo s (dataAddress x y s) w false pa →
      ∃ t, exec i s = .next t ∧
        Takes .busTimeout (s.pc - 4) (s.addCycle { readCycle pa w with answered := false }) t) ∧
    ((i = .stw r x y ∧ w = .word ∨ i = .sth r x y ∧ w = .half ∨ i = .stb r x y ∧ w = .byte) →
      GoesTo s (dataAddress x y s) w true pa →
      ∃ t, exec i s = .next t ∧
        Takes .busTimeout (s.pc - 4) (s.addCycle { writeCycle pa w (s.reg r) with answered := false }) t)

/-- R100, R233, R238, R60: LDW and STW of a device word make the device's own word access; nothing but the devices and, for
LDW, the destination register changes. That they complete also where the spec states no effect or asks a model to refuse
(sender data read, keyboard data written, the disk before INIT or during an action, a device of which nothing is known) is
the model's choice (logs 23, 26, 39). -/
def Obligations.WordAccessesReachDevices : Prop :=
  ∀ (s : State) (r x : Reg) (y : Half) (pa : Word) (d : DevReg), select s.cfg pa = .device d →
    (GoesTo s (dataAddress x y s) .word false pa → ∃ t v e, DeviceReads s pa v e ∧ exec (.ldw r x y) s = .next t ∧
      OnlyRegAndDevices r v s t ∧ t.dev = e ∧ t.bus = s.bus ++ [readCycle pa .word]) ∧
    (GoesTo s (dataAddress x y s) .word true pa → ∃ t e, DeviceWrites s pa (s.reg r) e ∧ exec (.stw r x y) s = .next t ∧
      OnlyRegAndDevices 0#5 0 s t ∧ t.dev = e ∧ t.bus = s.bus ++ [writeCycle pa .word (s.reg r)])

/-- R98 and the model's choice of log 15 (free values instead of a refusal): a half-word or byte access of a device raises no
fault, and changes nothing but the destination register of a load and the state of the device addressed. -/
def Obligations.SubWordDeviceAccessesComplete : Prop :=
  ∀ (s : State) (r x : Reg) (y : Half) (pa : Word) (w : Width) (d : DevReg) (i : Instr), select s.cfg pa = .device d →
    (((i = .ldh r x y ∨ i = .ldhu r x y) ∧ w = .half ∨ (i = .ldb r x y ∨ i = .ldbu r x y) ∧ w = .byte) →
      GoesTo s (dataAddress x y s) w false pa →
      ∃ t v, exec i s = .next t ∧ OnlyRegAndDevices r v s t ∧ SameOtherDevices d s.dev t.dev) ∧
    ((i = .sth r x y ∧ w = .half ∨ i = .stb r x y ∧ w = .byte) → GoesTo s (dataAddress x y s) w true pa →
      ∃ t, exec i s = .next t ∧ OnlyRegAndDevices 0#5 0 s t ∧ SameOtherDevices d s.dev t.dev)

/-! ## System instructions -/

/-- R250: each of the seven privileged instructions, executed in User Mode, takes the Privileged Instruction Fault and does
nothing else. -/
def Obligations.PrivilegedInstructionsFaultInUserMode : Prop :=
  ∀ (s : State) (i : Instr), s.psw.uc = true →
    (i = .rfx ∨ (∃ r z, i = .mvfs r z) ∨ (∃ r z, i = .mvts r z) ∨ i = .tbs ∨ i = .tbwr ∨ i = .tbri ∨ i = .tbwi) →
    ∃ t, exec i s = .next t ∧ Takes .privilegedInstruction (s.pc - 4) s t ∧ t.draws = s.draws

/-- R251: TRAP takes the Trap Fault in either mode, with its own address as the return address. -/
def Obligations.TrapTakesTheTrapFault : Prop :=
  ∀ s : State, ∃ t, exec .trap s = .next t ∧ Takes .trap (s.pc - 4) s t ∧ t.draws = s.draws

/-- R252: RFX in Kernel Mode. -/
def Obligations.RfxPopsTheStacks : Prop :=
  ∀ s : State, s.psw.uc = false → ∃ t, exec .rfx s = .next t ∧ t.pc = s.reg 30 ∧
    t.psw.ic = s.psw.ip ∧ t.psw.ip = s.psw.io ∧ t.psw.io = s.psw.io ∧
    t.psw.uc = s.psw.up ∧ t.psw.up = s.psw.uo ∧ t.psw.uo = s.psw.uo ∧
    t.psw.v = s.psw.v ∧ t.psw.eid = s.psw.eid ∧ t.psw.ien = s.psw.ien ∧ t.psw.ignored = s.psw.ignored ∧
    SameRegs s t ∧ SameMmuRegs s t ∧ SameTlb s t ∧ SameOutside s t ∧ Quiet s t

/-- R253, R28, R35, R37, R38: MVFS in Kernel Mode moves S[z] for z in 0..4, each field at its bits. That the bits the manual
calls ignored (PSW 31..28, S[1] 30..5, S[2] 11..0, S[3] 11..2) and bit 31 of S[1] read as the register holds them is the
spec's decision D5 (log 8); that every EID does, D22 (log 36). -/
def Obligations.MvfsReadsSpecialRegisters : Prop :=
  ∀ (s : State) (r : Reg) (z : Half), s.psw.uc = false → z.toNat ≤ 4 →
    ∃ t v, exec (.mvfs r z) s = .next t ∧ Computes r v s t ∧
      (z = 0#16 →
        v.getLsbD 27 = s.psw.v ∧ v.getLsbD 26 = s.psw.uc ∧ v.getLsbD 25 = s.psw.up ∧ v.getLsbD 24 = s.psw.uo ∧
        v.getLsbD 23 = s.psw.ic ∧ v.getLsbD 22 = s.psw.ip ∧ v.getLsbD 21 = s.psw.io ∧
        v.extractLsb' 16 5 = s.psw.eid ∧ v.extractLsb' 0 16 = s.psw.ien ∧ v.extractLsb' 28 4 = s.psw.ignored) ∧
      (z = 1#16 → v.getLsbD 31 = s.tlbIndex.miss ∧ v.extractLsb' 0 5 = s.tlbIndex.index ∧
        v.extractLsb' 5 26 = s.tlbIndex.ignored) ∧
      (z = 2#16 → v.extractLsb' 12 20 = s.tlbHigh.page ∧ v.extractLsb' 0 12 = s.tlbHigh.ignored) ∧
      (z = 3#16 → v.extractLsb' 12 20 = s.tlbLow.frame ∧ v.getLsbD 1 = s.tlbLow.write ∧ v.getLsbD 0 = s.tlbLow.valid ∧
        v.extractLsb' 2 10 = s.tlbLow.ignored) ∧
      (z = 4#16 → v = s.tlbBad)

/-- R254, R34, R35, R37, R38: MVTS in Kernel Mode writes S[z] for z in 0..4, every field from its bits (the ignored bits
take any value, decision D5, log 8), and nothing else. That bit 31 of S[1] holds what was written is the spec's choice (R35,
D5, log 8), and that EID takes the unused numbers 26 to 31 too is its decision D22 (log 36). -/
def Obligations.MvtsWritesSpecialRegisters : Prop :=
  ∀ (s : State) (r : Reg), s.psw.uc = false →
    let v := s.reg r
    let same := fun (t : State) => SameRegs s t ∧ t.pc = s.pc ∧ SameTlb s t ∧ SameOutside s t ∧ t.bus = s.bus
    (∃ t, exec (.mvts r 0) s = .next t ∧ same t ∧ SameMmuRegs s t ∧
      t.psw.v = v.getLsbD 27 ∧ t.psw.uc = v.getLsbD 26 ∧ t.psw.up = v.getLsbD 25 ∧ t.psw.uo = v.getLsbD 24 ∧
      t.psw.ic = v.getLsbD 23 ∧ t.psw.ip = v.getLsbD 22 ∧ t.psw.io = v.getLsbD 21 ∧
      t.psw.eid = v.extractLsb' 16 5 ∧ t.psw.ien = v.extractLsb' 0 16) ∧
    (∃ t, exec (.mvts r 1) s = .next t ∧ same t ∧ t.psw = s.psw ∧
      t.tlbIndex.miss = v.getLsbD 31 ∧ t.tlbIndex.index = v.extractLsb' 0 5 ∧
      t.tlbHigh = s.tlbHigh ∧ t.tlbLow = s.tlbLow ∧ t.tlbBad = s.tlbBad) ∧
    (∃ t, exec (.mvts r 2) s = .next t ∧ same t ∧ t.psw = s.psw ∧ t.tlbHigh.page = v.extractLsb' 12 20 ∧
      t.tlbIndex = s.tlbIndex ∧ t.tlbLow = s.tlbLow ∧ t.tlbBad = s.tlbBad) ∧
    (∃ t, exec (.mvts r 3) s = .next t ∧ same t ∧ t.psw = s.psw ∧ t.tlbLow.frame = v.extractLsb' 12 20 ∧
      t.tlbLow.write = v.getLsbD 1 ∧ t.tlbLow.valid = v.getLsbD 0 ∧
      t.tlbIndex = s.tlbIndex ∧ t.tlbHigh = s.tlbHigh ∧ t.tlbBad = s.tlbBad) ∧
    (∃ t, exec (.mvts r 4) s = .next t ∧ same t ∧ t.psw = s.psw ∧ t.tlbBad = v ∧
      t.tlbIndex = s.tlbIndex ∧ t.tlbHigh = s.tlbHigh ∧ t.tlbLow = s.tlbLow)

/-- R255: TBS in Kernel Mode writes S[1] alone: the index of the only entry with the page of S[2], 0x80000000 if there is
none. With several it completes too, S[1] being any word (the model's choice of log 9). -/
def Obligations.TbsSearchesTheTlb : Prop :=
  ∀ s : State, s.psw.uc = false → ∃ t, exec .tbs s = .next t ∧
    SameRegs s t ∧ t.pc = s.pc ∧ t.psw = s.psw ∧ t.tlbHigh = s.tlbHigh ∧ t.tlbLow = s.tlbLow ∧ t.tlbBad = s.tlbBad ∧
    SameTlb s t ∧ SameOutside s t ∧ t.bus = s.bus ∧
    (∀ i, OnlyEntry s s.tlbHigh.page i → t.tlbIndex.toWord.toNat = i.toNat) ∧
    (NoEntry s s.tlbHigh.page → t.tlbIndex.toWord = 0x80000000#32)

/-- R256, R259: TBWR in Kernel Mode writes S[2] and S[3] into one entry of 4..31, whichever the generator gives, and changes
no other entry and no register. -/
def Obligations.TbwrReplacesANonFixedEntry : Prop :=
  ∀ s : State, s.psw.uc = false → ∃ t i, exec .tbwr s = .next t ∧ 4 ≤ i ∧ i < 32 ∧
    (∀ j : BitVec 5, t.entry j =
      if j.toNat = i then { page := s.tlbHigh.page, frame := s.tlbLow.frame, write := s.tlbLow.write,
                            valid := s.tlbLow.valid } else s.entry j) ∧
    SameRegs s t ∧ t.pc = s.pc ∧ t.psw = s.psw ∧ SameMmuRegs s t ∧ SameOutside s t ∧ Quiet s t

/-- R258, R259: TBWI in Kernel Mode writes S[2] and S[3] into the entry that S[1] MOD 32 names. -/
def Obligations.TbwiWritesTheIndexedEntry : Prop :=
  ∀ s : State, s.psw.uc = false → ∃ t, exec .tbwi s = .next t ∧
    (∀ j : BitVec 5, t.entry j =
      if j.toNat = s.tlbIndex.toWord.toNat % 32 then
        { page := s.tlbHigh.page, frame := s.tlbLow.frame, write := s.tlbLow.write, valid := s.tlbLow.valid }
      else s.entry j) ∧
    SameRegs s t ∧ t.pc = s.pc ∧ t.psw = s.psw ∧ SameMmuRegs s t ∧ t.rng = s.rng ∧ SameOutside s t ∧ Quiet s t

/-- R257, R259: TBRI in Kernel Mode reads the entry that S[1] MOD 32 names into S[2] and S[3]. -/
def Obligations.TbriReadsTheIndexedEntry : Prop :=
  ∀ (s : State) (i : BitVec 5), s.psw.uc = false → s.tlbIndex.toWord.toNat % 32 = i.toNat → ∃ t, exec .tbri s = .next t ∧
    t.tlbHigh.page = (s.entry i).page ∧ t.tlbLow.frame = (s.entry i).frame ∧ t.tlbLow.write = (s.entry i).write ∧
    t.tlbLow.valid = (s.entry i).valid ∧
    SameRegs s t ∧ t.pc = s.pc ∧ t.psw = s.psw ∧ t.tlbIndex = s.tlbIndex ∧ t.tlbBad = s.tlbBad ∧ SameTlb s t ∧
    SameOutside s t ∧ t.bus = s.bus

/-! ## The turn of the execution loop -/

/-- R285, R83, R200: if the four bytes at the physical address of pc decode to an instruction, the step is that
instruction's meaning at the state with the fetch cycle recorded and pc moved past the word, followed by the events and
the interrupt test of the turn. The same of the word that a device answers ("any readable address can be fetched from"),
whose read may change that device. Where events land is the model's choice (log 19), and so is that the fetch of a device
word completes also where the spec states no effect of the read or asks a model to refuse it (sender data, the disk before
INIT or during an action, a device of which nothing is known; logs 23, 26, 39). -/
def Obligations.StepRunsTheDecodedInstruction : Prop :=
  ∀ (s u : State) (pa : Word), s.turnInput.reset = false → u = applyEvents s.turnInput.before (beginTurn s) →
    GoesTo u u.pc .word false pa →
    (∀ (i : Instr) (rest : List Byte), InMemory u pa → decode (Cells.bytes u.mem pa.toNat 4) = .ok (i, rest) →
      step s = endTurn s.turnInput (exec i ((u.addCycle (readCycle pa .word)).setPc (u.pc + 4)))) ∧
    (∀ d, select u.cfg pa = .device d → ∃ w v, fetch u = .done w v ∧ DeviceReads u pa w v.dev ∧
      OnlyRegAndDevices 0#5 0 u v ∧ v.bus = u.bus ++ [readCycle pa .word] ∧
      ∀ i, decodeWord w = .ok i → step s = endTurn s.turnInput (exec i (v.setPc (u.pc + 4))))

/-- R83, R95, R286: a fetch that fails is an exception with pc itself as the return address, and no instruction is
executed. Where events land is the model's choice (log 19). -/
def Obligations.FailedFetchesTakeTheirFault : Prop :=
  ∀ (s u : State), s.turnInput.reset = false → u = applyEvents s.turnInput.before (beginTurn s) →
    (∀ c, FailsWith u u.pc .word false c →
      ∃ t, step s = endTurn s.turnInput (.next t) ∧ Takes c u.pc u t) ∧
    (∀ pa, GoesTo u u.pc .word false pa → select u.cfg pa = .nothing →
      ∃ t, step s = endTurn s.turnInput (.next t) ∧
        Takes .busTimeout u.pc (u.addCycle { readCycle pa .word with answered := false }) t)

/-- R300, R297, R32: an interrupt is accepted exactly if PSW.IC is 1 and some line i with irq[i] = 1 has PSW.IEN[i] = 1;
the one accepted is such a line, whichever irq_select gives (log 11), with pc as its return address; otherwise nothing
changes. -/
def Obligations.AdmittedInterruptsAreAccepted : Prop :=
  ∀ s : State,
    (s.psw.ic = true → (∃ i < 16, s.irq i = true ∧ s.psw.ien.getLsbD i = true) →
      ∃ i < 16, s.irq i = true ∧ s.psw.ien.getLsbD i = true ∧
        Takes (.interrupt (BitVec.ofNat 4 i)) s.pc s (interruptTest s)) ∧
    (s.psw.ic = false ∨ (∀ i < 16, s.irq i = false ∨ s.psw.ien.getLsbD i = false) → interruptTest s = s)

/-- R350, R351, R46: a turn with the reset line asserted sets pc and PSW, clears the disk's INIT flag, leaves memory and
configuration as they were, and makes no bus cycle. That reset takes a turn of its own, after the events of that turn, is
the model's choice (logs 19, 20). -/
def Obligations.ResetLineSetsTheResetState : Prop :=
  ∀ s : State, s.turnInput.reset = true → ∃ t, step s = .next t ∧ t.pc = 0xE0000000#32 ∧ t.psw.toWord = 0#32 ∧
    t.dev.disk.init = false ∧ SameBytes s t ∧ t.cfg = s.cfg ∧ t.bus = []

/-- R46: the state after reset. Only what the spec states: pc, all 32 bits of PSW, the disk's INIT flag, and x[0] (which
reads 0 in every state). -/
def Obligations.ResetStateIsAsStated : Prop :=
  State.reset.pc = 0xE0000000#32 ∧ State.reset.psw.toWord = 0#32 ∧ State.reset.dev.disk.init = false ∧
  ∀ s : State, s.reg 0 = 0#32

/-- R353, R285, log 1: the first instruction after reset is the word at physical address 0x20000000, the first of the
ROM. -/
def Obligations.ResetRunsTheFirstRomWord : Prop :=
  ∀ (s : State) (w : Word) (i : Instr), decodeWord w = .ok i → s = State.reset.withFetchWord 32 w.toNat →
    Cells.word s.mem 0x20000000 = w ∧
    step s = endTurn TurnInput.quiet (exec i ((s.addCycle (readCycle 0x20000000 .word)).setPc 0xE0000004))

/-! ## Invariants and whole-machine rules -/

/-- R62, R66 and the model's canonical form (log 2): every step keeps the invariant. -/
def Obligations.StepKeepsTheInvariant : Prop :=
  ∀ s t : State, s.Inv → step s = .next t → t.Inv

/-- The invariant holds right after reset. -/
def Obligations.ResetMeetsTheInvariant : Prop := State.reset.Inv

/-- R285, R306, R371: no step stops: every state, whatever it holds, has a next state. That this holds also where the spec
gives no outcome and asks a model to refuse (D10, D11, U4, U5, U18: duplicated pages, sub-word access of devices, misuse of
the disk and of data registers) is the model's choice (logs 9, 15, 23, 26). -/
def Obligations.EveryStepAnswersNext : Prop := ∀ s : State, ∃ t, step s = .next t

/-- R45, R99, D9: no step changes the configuration or any byte of ROM. -/
def Obligations.StepNeverChangesRom : Prop :=
  ∀ s t : State, s.Inv → step s = .next t →
    t.cfg = s.cfg ∧ ∀ a, inRom s.cfg a = true → Memory.byte t.mem a = Memory.byte s.mem a

/-- R310, R250: a turn that begins in User Mode leaves the TLB, S[1], S[3], and the fields V, IEN and 31..28 of the PSW as
they were, whatever instruction it runs and whatever exception it takes. -/
def Obligations.UserModeCannotTouchPrivilegedState : Prop :=
  ∀ s t : State, s.psw.uc = true → s.turnInput.reset = false → step s = .next t →
    SameTlb s t ∧ t.tlbIndex = s.tlbIndex ∧ t.tlbLow = s.tlbLow ∧
    t.psw.v = s.psw.v ∧ t.psw.ien = s.psw.ien ∧ t.psw.ignored = s.psw.ignored

/-- R311, R290, R291: Kernel Mode is entered only by accepting an exception: for some cause the stacks hold the pushed
values, EID its number, S[4] the faulting address of an address fault, pc the service address of that cause, and x[30] the
pc that the turn began with or, for an interrupt, the pc that the completed instruction left in User Mode. -/
def Obligations.KernelModeIsEnteredOnlyByAnException : Prop :=
  ∀ s t : State, s.psw.uc = true → s.turnInput.reset = false → step s = .next t → t.psw.uc = false →
    t.psw.up = true ∧ t.psw.uo = s.psw.up ∧ t.psw.ic = false ∧ t.psw.ip = s.psw.ic ∧ t.psw.io = s.psw.ip ∧
    ∃ c, t.psw.eid.toNat = eidNumber c ∧ (∀ va, faultingAddress c = some va → t.tlbBad = va) ∧
      t.pc = (if s.psw.v then 0xC0000000#32 else 0xE0000000#32) + serviceOffset c ∧
      ((∀ line, c ≠ .interrupt line) → t.reg 30 = s.pc) ∧
      (∀ line, c = .interrupt line → ∃ u, fetchAndExecute (applyEvents s.turnInput.before (beginTurn s)) = .next u ∧
        u.psw.uc = true ∧ t.reg 30 = u.pc)

/-- R44, R91, R230: only the eight loads and stores make bus cycles, and each makes at most one. -/
def Obligations.OnlyLoadsAndStoresUseTheBus : Prop :=
  ∀ (i : Instr) (s t : State), exec i s = .next t →
    t.bus = s.bus ∨
    ((∃ c, t.bus = s.bus ++ [c]) ∧
      ∃ r x y, i = .ldw r x y ∨ i = .ldh r x y ∨ i = .ldhu r x y ∨ i = .ldb r x y ∨ i = .ldbu r x y ∨
        i = .stw r x y ∨ i = .sth r x y ∨ i = .stb r x y)

/-! ## Devices of the demonstration project -/

/-- R331, R321, R330: the timer's registers, and its count: after fewer clock cycles than the counter holds it has gone
down by so many, after exactly as many it holds the divisor and the wrap-around flag is set. That the divisor is a register
of 32 bits that reads back what was written (its width and access are not stated, N20), the counter's 32 bits, the clock
event and the free counter after a divisor write are the model's choice (log 25). -/
def Obligations.TimerRegistersReadAndWrite : Prop :=
  ∀ (s : State) (v : Word), HasDevice s.cfg .timer 0x30000000 →
    (∃ w, DeviceReads s 0x30000000 w s.dev ∧ w.getLsbD 1 = s.dev.timer.enable ∧ w.getLsbD 0 = s.dev.timer.wrap) ∧
    DeviceWrites s 0x30000000 v
      { s.dev with timer := { s.dev.timer with enable := v.getLsbD 1, wrap := v.getLsbD 0 } } ∧
    DeviceReads s 0x30000004 s.dev.timer.divisor s.dev ∧
    (∃ c, DeviceWrites s 0x30000004 v { s.dev with timer := { s.dev.timer with divisor := v, counter := c } }) ∧
    (∀ n k, k < s.dev.timer.counter.toNat →
      ∃ c : Word, c.toNat = s.dev.timer.counter.toNat - k ∧
        Devices.event s.cfg (.clock k) n s.dev = { s.dev with timer := { s.dev.timer with counter := c } }) ∧
    (∀ n k, 0 < k → k = s.dev.timer.counter.toNat →
      Devices.event s.cfg (.clock k) n s.dev =
        { s.dev with timer := { s.dev.timer with counter := s.dev.timer.divisor, wrap := true } })

/-- R333, R334, R321: the keyboard's registers; reading the data register resets Ready. -/
def Obligations.KeyboardRegistersReadAndWrite : Prop :=
  ∀ (s : State) (v : Word) (code : Byte), HasDevice s.cfg .keyboard 0x30200000 →
    (∃ w, DeviceReads s 0x30200000 w s.dev ∧
      w.getLsbD 1 = s.dev.keyboard.enable ∧ w.getLsbD 0 = s.dev.keyboard.ready) ∧
    DeviceWrites s 0x30200000 v
      { s.dev with keyboard := { s.dev.keyboard with enable := v.getLsbD 1, ready := v.getLsbD 0 } } ∧
    (∃ w, DeviceReads s 0x30200004 w { s.dev with keyboard := { s.dev.keyboard with ready := false } } ∧
      w.extractLsb' 0 8 = s.dev.keyboard.data) ∧
    (s.dev.keyboard.ready = false → ∀ n, Devices.event s.cfg (.key code) n s.dev =
      { s.dev with keyboard := { s.dev.keyboard with ready := true, data := code } })

/-- R335, R336: the registers of the two serial lines; reading received data and writing data to send reset Ready;
a character that arrives with Ready reset is held and sets it, and so does a sender that can take the next one. That a
character written while Ready is reset is sent too is the model's choice (log 24). -/
def Obligations.TerminalRegistersReadAndWrite : Prop :=
  ∀ (s : State) (v : Word) (second : Bool) (char : Byte), HasDevice s.cfg .terminal 0x30300000 →
    let k := s.dev.terminal second
    let base : Word := if second then 0x30300010 else 0x30300000
    (∃ w, DeviceReads s base w s.dev ∧ w.getLsbD 1 = k.rcvEnable ∧ w.getLsbD 0 = k.rcvReady) ∧
    (∃ w, DeviceReads s (base + 4) w (s.dev.setTerminal second { k with rcvReady := false }) ∧
      w.extractLsb' 0 8 = k.rcvData) ∧
    (∃ w, DeviceReads s (base + 8) w s.dev ∧ w.getLsbD 1 = k.sndEnable ∧ w.getLsbD 0 = k.sndReady) ∧
    DeviceWrites s base v (s.dev.setTerminal second { k with rcvEnable := v.getLsbD 1, rcvReady := v.getLsbD 0 }) ∧
    DeviceWrites s (base + 8) v
      (s.dev.setTerminal second { k with sndEnable := v.getLsbD 1, sndReady := v.getLsbD 0 }) ∧
    DeviceWrites s (base + 12) v
      (s.dev.setTerminal second { k with sndReady := false, sent := k.sent ++ [v.extractLsb' 0 8] }) ∧
    (k.rcvReady = false → ∀ n, Devices.event s.cfg (.received second char) n s.dev =
      s.dev.setTerminal second { k with rcvReady := true, rcvData := char }) ∧
    (∀ n, Devices.event s.cfg (.senderReady second) n s.dev = s.dev.setTerminal second { k with sndReady := true })

/-- R332, C15: the display cell of line l and column c is the word at 0x30100000 + 4 * (128 * l + c); its 16 low bits are
kept, other cells are not touched. That all 32 lines are storage, against the printed end address of the display memory, is
the spec's resolution C15, and that a cell reads back its 16 low bits is deduced from R332 (both log 27). -/
def Obligations.DisplayCellsAreKept : Prop :=
  ∀ (s : State) (l c : Nat) (pa v : Word), HasDevice s.cfg .display 0x30100000 → s.dev.wf = true → l < 32 → c < 128 →
    pa.toNat = 0x30100000 + 4 * (128 * l + c) →
    (∃ w, DeviceReads s pa w s.dev ∧ w.extractLsb' 0 16 = s.dev.display.get (128 * l + c)) ∧
    ∃ e, DeviceWrites s pa v e ∧ e = { s.dev with display := e.display } ∧
      ∀ k, e.display.get k = if k = 128 * l + c then v.extractLsb' 0 16 else s.dev.display.get k

/-- R337 to R341: initialization sets INIT; the disk's registers and its data buffer once it is initialized: every word of
0x30480000..0x304FFFFC is the four bytes of the buffer at (address AND 0xFFF), big-endian (R68); while an action is in
progress WR, sector address and sector count cannot be modified, whatever is written to START. That START obeys the WR bit
of the same write, and that a START during an action is noted until it finishes, is the model's choice (log 26). -/
def Obligations.DiskRegistersReadAndWrite : Prop :=
  ∀ (s : State) (v : Word), HasDevice s.cfg .disk 0x30400000 →
    (∃ w, DeviceReads s 0x30400000 w s.dev ∧ w.getLsbD 31 = s.dev.disk.dmarq ∧ w.getLsbD 5 = s.dev.disk.init ∧
      w.getLsbD 4 = s.dev.disk.fin ∧ w.getLsbD 3 = s.dev.disk.err ∧ w.getLsbD 2 = s.dev.disk.wr ∧
      w.getLsbD 1 = s.dev.disk.ien ∧ w.getLsbD 0 = false) ∧
    (s.dev.disk.init = true →
      DeviceReads s 0x30400004 s.dev.disk.count s.dev ∧ DeviceReads s 0x30400008 s.dev.disk.sector s.dev ∧
      DeviceReads s 0x3040000C s.cfg.diskCapacity s.dev ∧ DeviceWrites s 0x3040000C v s.dev ∧
      (s.dev.disk.busy = false →
        DeviceWrites s 0x30400000 v { s.dev with disk := { s.dev.disk with
          fin := v.getLsbD 4, wr := v.getLsbD 2, ien := v.getLsbD 1, busy := v.getLsbD 0, again := false } } ∧
        DeviceWrites s 0x30400004 v { s.dev with disk := { s.dev.disk with count := v } } ∧
        DeviceWrites s 0x30400008 v { s.dev with disk := { s.dev.disk with sector := v } }) ∧
      (s.dev.disk.busy = true →
        DeviceWrites s 0x30400004 v s.dev ∧ DeviceWrites s 0x30400008 v s.dev ∧
        DeviceWrites s 0x30400000 v { s.dev with disk := { s.dev.disk with
          fin := v.getLsbD 4, ien := v.getLsbD 1, again := s.dev.disk.again || v.getLsbD 0 } })) ∧
    (∀ n, Devices.event s.cfg .diskInitialized n s.dev = { s.dev with disk := { s.dev.disk with init := true } }) ∧
    (s.dev.disk.init = true → s.dev.disk.busy = false → ∀ pa : Word, 0x30480000 ≤ pa.toNat → pa.toNat < 0x30500000 →
      pa.toNat % 4 = 0 →
      let a := pa.toNat % 4096
      (∃ w, DeviceReads s pa w s.dev ∧
        w.extractLsb' 24 8 = s.dev.disk.buffer.get a ∧ w.extractLsb' 16 8 = s.dev.disk.buffer.get (a + 1) ∧
        w.extractLsb' 8 8 = s.dev.disk.buffer.get (a + 2) ∧ w.extractLsb' 0 8 = s.dev.disk.buffer.get (a + 3)) ∧
      (s.dev.wf = true → ∃ b, DeviceWrites s pa v { s.dev with disk := { s.dev.disk with buffer := b } } ∧
        ∀ k, b.get k =
          if k = a then v.extractLsb' 24 8 else if k = a + 1 then v.extractLsb' 16 8
          else if k = a + 2 then v.extractLsb' 8 8 else if k = a + 3 then v.extractLsb' 0 8
          else s.dev.disk.buffer.get k))

/-- R339, R340, R341: an action that finishes without error has moved count sectors of 512 bytes between the start of the
buffer and the disk from the sector address on, sets FIN and resets ERR; with an error it sets ERR and FIN. That all data
moves at the finish is the model's choice, and so is that a START written during the action can only bring another action
with the same arguments after it (log 26). -/
def Obligations.DiskActionsMoveSectors : Prop :=
  ∀ (cfg : Config) (d : Devices) (n : Nat), d.wf = true → d.disk.busy = true →
    (Devices.event cfg (.diskFinished true) n d).disk.fin = true ∧
    (Devices.event cfg (.diskFinished true) n d).disk.err = true ∧
    (d.disk.count.toNat ≤ 8 → d.disk.sector.toNat + d.disk.count.toNat ≤ cfg.diskCapacity.toNat →
      ∃ e : Disk, Devices.event cfg (.diskFinished false) n d = { d with disk := e } ∧
        e.fin = true ∧ e.err = false ∧ (d.disk.again = false → e.busy = false) ∧ e.again = false ∧
        (d.disk.wr = false → e.medium = d.disk.medium ∧
          ∀ k, e.buffer.get k = if k < 512 * d.disk.count.toNat then d.disk.medium.get (512 * d.disk.sector.toNat + k)
            else d.disk.buffer.get k) ∧
        (d.disk.wr = true → e.buffer = d.disk.buffer ∧
          ∀ k, e.medium.get k =
            if 512 * d.disk.sector.toNat ≤ k ∧ k < 512 * d.disk.sector.toNat + 512 * d.disk.count.toNat
            then d.disk.buffer.get (k - 512 * d.disk.sector.toNat) else d.disk.medium.get k))

/-- R320, R321, R331, R333, R335, R338: on the demonstration platform each device's line is the AND of its enable and its
flag, and the unused lines are never asserted (log 29 for platforms with other sources). -/
def Obligations.InterruptLinesFollowTheDevices : Prop :=
  ∀ (s : State) (i : Nat), s.cfg = Config.demo →
    s.irq i =
      if i = 0 then s.dev.term1.sndEnable && s.dev.term1.sndReady
      else if i = 1 then s.dev.term1.rcvEnable && s.dev.term1.rcvReady
      else if i = 2 then s.dev.term2.sndEnable && s.dev.term2.sndReady
      else if i = 3 then s.dev.term2.rcvEnable && s.dev.term2.rcvReady
      else if i = 4 then s.dev.keyboard.enable && s.dev.keyboard.ready
      else if i = 8 then s.dev.disk.ien && s.dev.disk.fin
      else if i = 14 then s.dev.timer.enable && s.dev.timer.wrap
      else false
end

