-- ==== Sys2Proof/Laws/Memory.lean ====
section
/-! SUPPORT. Every operation on a storage keeps its canonical form and its range of addresses; what a unit reads after a
write; equal contents are equal lists. -/

namespace Sys2Proof.Machine

variable {w : Nat}

theorem Cells.wfAbove_mono {m : Cells w} {lo lo' : Nat} (h : lo' ≤ lo) (hm : m.wfAbove lo = true) :
    m.wfAbove lo' = true := by
  cases m with
  | nil => rfl
  | cons c rest =>
    simp only [Cells.wfAbove, Bool.and_eq_true, decide_eq_true_eq] at hm ⊢
    exact ⟨⟨by omega, hm.1.2⟩, hm.2⟩

/-- An address below every listed one reads as the blank. -/
theorem Cells.get_below {m : Cells w} {lo a : Nat} (hm : m.wfAbove lo = true) (ha : a < lo) : m.get a = blank w := by
  induction m generalizing lo with
  | nil => rfl
  | cons c rest ih =>
    obtain ⟨b, v⟩ := c
    simp only [Cells.wfAbove, Bool.and_eq_true, decide_eq_true_eq] at hm
    have hb : ¬ b = a := by omega
    simp only [Cells.get, hb, if_false]
    exact ih hm.2 (by omega)

theorem Cells.wfAbove_insert {m : Cells w} {lo a : Nat} {v : BitVec w} (hm : m.wfAbove lo = true) (ha : lo ≤ a)
    (hv : v ≠ blank w) : (m.insert a v).wfAbove lo = true := by
  induction m generalizing lo with
  | nil => simp [Cells.insert, Cells.wfAbove, ha, hv]
  | cons c rest ih =>
    obtain ⟨b, u⟩ := c
    simp only [Cells.wfAbove, Bool.and_eq_true, decide_eq_true_eq] at hm
    unfold Cells.insert
    split
    · simp [Cells.wfAbove, ha, hv, hm.1.2, hm.2]; omega
    · split
      · subst_vars; simp [Cells.wfAbove, ha, hv, hm.2]
      · simp [Cells.wfAbove, hm.1.1, hm.1.2, ih hm.2 (by omega)]

theorem Cells.wfAbove_remove {m : Cells w} {lo a : Nat} (hm : m.wfAbove lo = true) : (m.remove a).wfAbove lo = true := by
  induction m generalizing lo with
  | nil => rfl
  | cons c rest ih =>
    obtain ⟨b, u⟩ := c
    have hm' := hm
    simp only [Cells.wfAbove, Bool.and_eq_true, decide_eq_true_eq] at hm
    unfold Cells.remove
    split
    · exact Cells.wfAbove_mono (by omega) hm.2
    · split
      · exact hm'
      · simp [Cells.wfAbove, hm.1.1, hm.1.2, ih hm.2]

/-- A write keeps the canonical form. -/
theorem Cells.wf_put {m : Cells w} (a : Nat) (v : BitVec w) (hm : m.wf = true) : (m.put a v).wf = true := by
  unfold Cells.put
  split
  · exact Cells.wfAbove_remove hm
  · exact Cells.wfAbove_insert hm (Nat.zero_le _) ‹_›

theorem Cells.get_insert (m : Cells w) (a b : Nat) (v : BitVec w) :
    (m.insert a v).get b = if b = a then v else m.get b := by
  induction m with
  | nil => simp [Cells.insert, Cells.get, eq_comm]
  | cons c rest ih =>
    obtain ⟨k, u⟩ := c
    unfold Cells.insert
    split
    · simp only [Cells.get]; grind
    · split
      · simp only [Cells.get]; grind
      · simp only [Cells.get, ih]; grind

theorem Cells.get_remove {m : Cells w} {lo : Nat} (a b : Nat) (hm : m.wfAbove lo = true) :
    (m.remove a).get b = if b = a then blank w else m.get b := by
  induction m generalizing lo with
  | nil => simp [Cells.remove, Cells.get]
  | cons c rest ih =>
    obtain ⟨k, u⟩ := c
    simp only [Cells.wfAbove, Bool.and_eq_true, decide_eq_true_eq] at hm
    unfold Cells.remove
    split
    · subst_vars
      by_cases h : b = k
      · subst h; simpa using Cells.get_below hm.2 (by omega)
      · simp [Cells.get, h, Ne.symm h]
    · split
      · by_cases h : b = a
        · subst h
          have := Cells.get_below hm.2 (by omega : b < k + 1)
          simp [Cells.get, *]
        · simp [h]
      · simp only [Cells.get, ih hm.2]; grind

/-- What a unit reads after a write. -/
theorem Cells.get_put {m : Cells w} (a b : Nat) (v : BitVec w) (hm : m.wf = true) :
    (m.put a v).get b = if b = a then v else m.get b := by
  unfold Cells.put
  split
  · subst_vars; exact Cells.get_remove a b hm
  · exact Cells.get_insert m a b v

theorem Cells.within_insert {m : Cells w} {p : Nat → Bool} {a : Nat} {v : BitVec w} (hm : m.within p = true)
    (ha : p a = true) : (m.insert a v).within p = true := by
  induction m with
  | nil => simp [Cells.insert, Cells.within, ha]
  | cons c rest ih =>
    simp only [Cells.within, List.all_cons, Bool.and_eq_true] at hm
    unfold Cells.insert
    split
    · simp [Cells.within, ha, hm]
    · split
      · simp [Cells.within, ha]; simpa using hm.2
      · simpa [Cells.within, hm.1] using ih hm.2

theorem Cells.within_remove {m : Cells w} {p : Nat → Bool} (a : Nat) (hm : m.within p = true) :
    (m.remove a).within p = true := by
  induction m with
  | nil => rfl
  | cons c rest ih =>
    have hm' := hm
    simp only [Cells.within, List.all_cons, Bool.and_eq_true] at hm
    unfold Cells.remove
    split
    · exact hm.2
    · split
      · exact hm'
      · simpa [Cells.within, hm.1] using ih hm.2

/-- A write inside a range of addresses keeps the storage inside it. -/
theorem Cells.within_put {m : Cells w} {p : Nat → Bool} {a : Nat} (v : BitVec w) (hm : m.within p = true)
    (ha : p a = true) : (m.put a v).within p = true := by
  unfold Cells.put
  split
  · exact Cells.within_remove a hm
  · exact Cells.within_insert hm ha

/-- An unlisted address reads as the blank: so does every address outside the range. -/
theorem Cells.get_outside {m : Cells w} {p : Nat → Bool} {a : Nat} (hm : m.within p = true) (ha : p a = false) :
    m.get a = blank w := by
  induction m with
  | nil => rfl
  | cons c rest ih =>
    simp only [Cells.within, List.all_cons, Bool.and_eq_true] at hm
    have : ¬ c.1 = a := fun h => by rw [h, ha] at hm; simp at hm
    simp only [Cells.get, this, if_false]
    exact ih hm.2

/-- Two canonical storages with equal contents are equal. -/
theorem Cells.ext_of_get {m n : Cells w} {lo : Nat} (hm : m.wfAbove lo = true) (hn : n.wfAbove lo = true)
    (h : ∀ a, m.get a = n.get a) : m = n := by
  induction m generalizing n lo with
  | nil =>
    cases n with
    | nil => rfl
    | cons c rest =>
      simp only [Cells.wfAbove, Bool.and_eq_true, decide_eq_true_eq] at hn
      have := h c.1
      simp [Cells.get] at this
      exact absurd this.symm hn.1.2
  | cons c rest ih =>
    obtain ⟨b, v⟩ := c
    simp only [Cells.wfAbove, Bool.and_eq_true, decide_eq_true_eq] at hm
    cases n with
    | nil =>
      have := h b
      simp [Cells.get] at this
      exact absurd this hm.1.2
    | cons d rest' =>
      obtain ⟨b', v'⟩ := d
      simp only [Cells.wfAbove, Bool.and_eq_true, decide_eq_true_eq] at hn
      have hbb : b = b' := by
        rcases Nat.lt_trichotomy b b' with hlt | heq | hgt
        · have h1 := h b
          have h2 := Cells.get_below hn.2 (by omega : b < b' + 1)
          have : ¬ b' = b := by omega
          simp [Cells.get, this, h2] at h1
          exact absurd h1 hm.1.2
        · exact heq
        · have h1 := h b'
          have h2 := Cells.get_below hm.2 (by omega : b' < b + 1)
          have : ¬ b = b' := by omega
          simp [Cells.get, this, h2] at h1
          exact absurd h1.symm hn.1.2
      subst hbb
      have hv : v = v' := by simpa [Cells.get] using h b
      subst hv
      congr 1
      refine ih hm.2 hn.2 fun a => ?_
      by_cases ha : b = a
      · subst ha
        rw [Cells.get_below hm.2 (by omega), Cells.get_below hn.2 (by omega)]
      · simpa [Cells.get, ha] using h a

/-- Canonical contents are canonical and inside their range. -/
theorem Cells.wf_ofContents (p : Nat → Bool) (l : List (Nat × BitVec w)) : (Cells.ofContents p l).wf = true := by
  unfold Cells.ofContents
  induction l.filter fun c => p c.1 with
  | nil => rfl
  | cons c rest ih => exact Cells.wf_put _ _ ih

theorem Cells.within_ofContents (p : Nat → Bool) (l : List (Nat × BitVec w)) :
    (Cells.ofContents p l).within p = true := by
  unfold Cells.ofContents
  have hp : ∀ c ∈ l.filter (fun c => p c.1), p c.1 = true := by
    intro c hc; simpa using (List.mem_filter.mp hc).2
  generalize l.filter (fun c => p c.1) = kept at hp
  induction kept with
  | nil => rfl
  | cons c rest ih =>
    exact Cells.within_put _ (ih fun d hd => hp d (List.mem_cons_of_mem _ hd)) (hp c List.mem_cons_self)

/-! ## Bytes, half-words and words -/

theorem Cells.wf_putHalf {m : Cells 8} (a : Nat) (v : Half) (hm : m.wf = true) : (m.putHalf a v).wf = true :=
  Cells.wf_put _ _ (Cells.wf_put _ _ hm)

theorem Cells.wf_putWord {m : Cells 8} (a : Nat) (v : Word) (hm : m.wf = true) : (m.putWord a v).wf = true :=
  Cells.wf_put _ _ (Cells.wf_put _ _ (Cells.wf_put _ _ (Cells.wf_put _ _ hm)))

theorem Cells.within_putHalf {m : Cells 8} {p : Nat → Bool} {a : Nat} (v : Half) (hm : m.within p = true)
    (h0 : p a = true) (h1 : p (a + 1) = true) : (m.putHalf a v).within p = true :=
  Cells.within_put _ (Cells.within_put _ hm h0) h1

theorem Cells.within_putWord {m : Cells 8} {p : Nat → Bool} {a : Nat} (v : Word) (hm : m.within p = true)
    (h0 : p a = true) (h1 : p (a + 1) = true) (h2 : p (a + 2) = true) (h3 : p (a + 3) = true) :
    (m.putWord a v).within p = true :=
  Cells.within_put _ (Cells.within_put _ (Cells.within_put _ (Cells.within_put _ hm h0) h1) h2) h3

theorem Cells.get_putHalf {m : Cells 8} (a b : Nat) (v : Half) (hm : m.wf = true) :
    (m.putHalf a v).get b =
      if b = a + 1 then v.extractLsb' 0 8 else if b = a then v.extractLsb' 8 8 else m.get b := by
  simp only [Cells.putHalf, Cells.get_put _ _ _ (Cells.wf_put _ _ hm), Cells.get_put _ _ _ hm]

theorem Cells.get_putWord {m : Cells 8} (a b : Nat) (v : Word) (hm : m.wf = true) :
    (m.putWord a v).get b =
      if b = a + 3 then v.extractLsb' 0 8 else if b = a + 2 then v.extractLsb' 8 8
      else if b = a + 1 then v.extractLsb' 16 8 else if b = a then v.extractLsb' 24 8 else m.get b := by
  have h1 := Cells.wf_put (m := m) a (v.extractLsb' 24 8) hm
  have h2 := Cells.wf_put (a + 1) (v.extractLsb' 16 8) h1
  have h3 := Cells.wf_put (a + 2) (v.extractLsb' 8 8) h2
  simp only [Cells.putWord, Cells.get_put _ _ _ h3, Cells.get_put _ _ _ h2, Cells.get_put _ _ _ h1, Cells.get_put _ _ _ hm]

/-- Four bytes in big-endian arrangement are the word they were taken from (R9). -/
theorem wordBytes_append (v : Word) :
    v.extractLsb' 24 8 ++ v.extractLsb' 16 8 ++ v.extractLsb' 8 8 ++ v.extractLsb' 0 8 = v := by
  ext i hi
  simp only [BitVec.getElem_append, BitVec.getElem_extractLsb']
  grind

/-- Two bytes in big-endian arrangement are the half-word they were taken from (R9). -/
theorem halfBytes_append (v : Half) : v.extractLsb' 8 8 ++ v.extractLsb' 0 8 = v := by
  ext i hi
  simp only [BitVec.getElem_append, BitVec.getElem_extractLsb']
  grind

/-- A word read where a word was written gives the word written (R66, R67). -/
theorem Cells.word_putWord {m : Cells 8} (a : Nat) (v : Word) (hm : m.wf = true) : (m.putWord a v).word a = v := by
  simp only [Cells.word, Cells.get_putWord _ _ _ hm]
  simpa using wordBytes_append v

/-- A half-word read where a half-word was written gives the half-word written (R66, R67). -/
theorem Cells.half_putHalf {m : Cells 8} (a : Nat) (v : Half) (hm : m.wf = true) : (m.putHalf a v).half a = v := by
  simp only [Cells.half, Cells.get_putHalf _ _ _ hm]
  simpa using halfBytes_append v

/-- A list of bytes written keeps the canonical form. -/
theorem Cells.wf_putBytes (l : List Byte) {m : Cells 8} (a : Nat) (hm : m.wf = true) : (m.putBytes a l).wf = true := by
  induction l generalizing m a with
  | nil => exact hm
  | cons b rest ih => exact ih (a + 1) (Cells.wf_put a b hm)

theorem Cells.within_putBytes {p : Nat → Bool} (l : List Byte) {m : Cells 8} (a : Nat) (hm : m.within p = true)
    (hp : ∀ k < l.length, p (a + k) = true) : (m.putBytes a l).within p = true := by
  induction l generalizing m a with
  | nil => exact hm
  | cons b rest ih =>
    refine ih (a + 1) (Cells.within_put b hm (by simpa using hp 0 (by simp))) fun k hk => ?_
    have := hp (k + 1) (by simpa using hk)
    simpa [Nat.add_assoc, Nat.add_comm 1 k] using this

/-- What a byte reads after a list of bytes is written. -/
theorem Cells.get_putBytes (l : List Byte) {m : Cells 8} (a b : Nat) (hm : m.wf = true) :
    (m.putBytes a l).get b = if h : a ≤ b ∧ b < a + l.length then l[b - a]'(by omega) else m.get b := by
  induction l generalizing m a with
  | nil => simp [Cells.putBytes]
  | cons c rest ih =>
    simp only [Cells.putBytes, ih (a + 1) (Cells.wf_put a c hm), Cells.get_put _ _ _ hm, List.length_cons]
    by_cases h : a ≤ b ∧ b < a + (rest.length + 1)
    · by_cases hab : b = a
      · subst hab; simp
      · have h' : a + 1 ≤ b ∧ b < a + 1 + rest.length := by omega
        obtain ⟨k, hk⟩ : ∃ k, b - a = k + 1 := ⟨b - a - 1, by omega⟩
        have hk' : b - (a + 1) = k := by omega
        simp [h, h', hk, hk']
    · have h1 : ¬ (a + 1 ≤ b ∧ b < a + 1 + rest.length) := by omega
      have h2 : ¬ b = a := by omega
      rw [dif_neg h1, dif_neg h, if_neg h2]

/-- A store of any width keeps the canonical form of memory. -/
theorem Memory.wf_write {m : Memory} (a : Nat) (k : Width) (v : Word) (hm : Memory.wf m = true) :
    Memory.wf (Memory.write m a k v) = true := by
  cases k with
  | byte => exact Cells.wf_put _ _ hm
  | half => exact Cells.wf_putHalf _ _ hm
  | word => exact Cells.wf_putWord _ _ hm

/-- A store of any width stays inside a range that holds its bytes. -/
theorem Memory.within_write {m : Memory} {p : Nat → Bool} {a : Nat} (k : Width) (v : Word)
    (hm : Cells.within p m = true) (hp : ∀ j < k.bytes, p (a + j) = true) :
    Cells.within p (Memory.write m a k v) = true := by
  cases k with
  | byte => exact Cells.within_put _ hm (hp 0 (by decide))
  | half => exact Cells.within_putHalf _ hm (hp 0 (by decide)) (hp 1 (by decide))
  | word =>
    exact Cells.within_putWord _ hm (hp 0 (by decide)) (hp 1 (by decide)) (hp 2 (by decide)) (hp 3 (by decide))

/-- A store of any width leaves every byte outside it alone (R67). -/
theorem Memory.byte_write_of_outside {m : Memory} {a b : Nat} (k : Width) (v : Word) (hm : Memory.wf m = true)
    (hb : b < a ∨ a + k.bytes ≤ b) : Memory.byte (Memory.write m a k v) b = Memory.byte m b := by
  cases k with
  | byte =>
    simp only [Width.bytes] at hb
    have : ¬ b = a := by omega
    simp [Memory.byte, Memory.write, Cells.get_put _ _ _ hm, this]
  | half =>
    simp only [Width.bytes] at hb
    have h0 : ¬ b = a := by omega
    have h1 : ¬ b = a + 1 := by omega
    simp [Memory.byte, Memory.write, Cells.get_putHalf _ _ _ hm, h0, h1]
  | word =>
    simp only [Width.bytes] at hb
    have h0 : ¬ b = a := by omega
    have h1 : ¬ b = a + 1 := by omega
    have h2 : ¬ b = a + 2 := by omega
    have h3 : ¬ b = a + 3 := by omega
    simp [Memory.byte, Memory.write, Cells.get_putWord _ _ _ hm, h0, h1, h2, h3]

end Sys2Proof.Machine
end

