-- ==== Sys2Proof/Laws/Devices.lean ====
section
/-! SUPPORT. Every access and every event keeps the devices' storages canonical and inside their devices. -/

namespace Sys2Proof.Machine

/-- The parts of the devices' canonical form. -/
theorem Devices.wf_iff (d : Devices) :
    d.wf = true ↔ d.display.wf = true ∧ d.display.within (· < 4096) = true ∧ d.disk.buffer.wf = true ∧
      d.disk.buffer.within (· < 4096) = true ∧ d.disk.medium.wf = true := by
  simp [Devices.wf, and_assoc]

/-- The canonical form depends on the display, the buffer and the medium alone. -/
theorem Devices.wf_congr {d e : Devices} (h₁ : e.display = d.display) (h₂ : e.disk.buffer = d.disk.buffer)
    (h₃ : e.disk.medium = d.disk.medium) (h : d.wf = true) : e.wf = true := by
  rw [Devices.wf_iff] at h ⊢
  rwa [h₁, h₂, h₃]

@[simp] theorem Devices.setTerminal_timer (d : Devices) (k : Bool) (t : Terminal) :
    (d.setTerminal k t).timer = d.timer := by cases k <;> rfl
@[simp] theorem Devices.setTerminal_display (d : Devices) (k : Bool) (t : Terminal) :
    (d.setTerminal k t).display = d.display := by cases k <;> rfl
@[simp] theorem Devices.setTerminal_keyboard (d : Devices) (k : Bool) (t : Terminal) :
    (d.setTerminal k t).keyboard = d.keyboard := by cases k <;> rfl
@[simp] theorem Devices.setTerminal_disk (d : Devices) (k : Bool) (t : Terminal) :
    (d.setTerminal k t).disk = d.disk := by cases k <;> rfl
@[simp] theorem Devices.setTerminal_terminal (d : Devices) (k : Bool) (t : Terminal) :
    (d.setTerminal k t).terminal k = t := by cases k <;> rfl

theorem Devices.wf_setTerminal {d : Devices} (k : Bool) (t : Terminal) (h : d.wf = true) :
    (d.setTerminal k t).wf = true :=
  Devices.wf_congr (by simp) (by simp) (by simp) h

theorem Devices.wf_freeDisplay (n : Nat) : (freeDisplay n).wf = true ∧ (freeDisplay n).within (· < 4096) = true :=
  ⟨Cells.wf_ofContents _ _, Cells.within_ofContents _ _⟩

theorem Devices.wf_freeBuffer (n : Nat) : (freeBuffer n).wf = true ∧ (freeBuffer n).within (· < 4096) = true :=
  ⟨Cells.wf_ofContents _ _, Cells.within_ofContents _ _⟩

theorem Devices.wf_freeMedium (n : Nat) : (freeMedium n).wf = true := Cells.wf_ofContents _ _

/-- A free device state is canonical. -/
theorem Devices.wf_upset (r : DevReg) (n : Nat) {d : Devices} (h : d.wf = true) : (d.upset r n).wf = true := by
  have h' := (Devices.wf_iff d).1 h
  cases r <;> first
    | exact h
    | exact Devices.wf_setTerminal _ _ h
    | exact (Devices.wf_iff _).2 ⟨(Devices.wf_freeDisplay n).1, (Devices.wf_freeDisplay n).2, h'.2.2⟩
    | exact (Devices.wf_iff _).2 ⟨h'.1, h'.2.1, (Devices.wf_freeBuffer n).1, (Devices.wf_freeBuffer n).2,
        Devices.wf_freeMedium (n + 1)⟩

/-- A word read keeps the canonical form. -/
theorem Devices.wf_read (cfg : Config) (r : DevReg) (n : Nat) {d : Devices} (h : d.wf = true) :
    (d.read cfg r n).2.wf = true := by
  cases r <;> simp only [Devices.read] <;> (try split) <;> first
    | exact h
    | exact Devices.wf_upset _ _ h
    | exact Devices.wf_setTerminal _ _ h

/-- The words of the display lie inside it, and those of the disk's buffer too (R332, R337, R341). -/
def DevReg.inside : DevReg → Prop
  | .displayCell k => k < 4096
  | .diskBuffer k => k < 1024
  | _ => True

theorem localIndex_lt {h : DevHoles} {size k j : Nat} (hs : 0 < size) (e : localIndex h size k = some j) : j < size := by
  unfold localIndex at e
  split at e
  · cases e; assumption
  · cases h
    · cases e
    · cases e; exact Nat.mod_lt _ hs

/-- A word of a device lies inside it. -/
theorem kindReg_inside {kind : DeviceKind} {h : DevHoles} {k : Nat} {r : DevReg} (e : kindReg kind h k = some r) :
    r.inside := by
  cases kind with
  | timer =>
    simp only [kindReg, timerReg, Option.map_eq_some_iff] at e
    obtain ⟨j, -, rfl⟩ := e
    split <;> trivial
  | display =>
    simp only [kindReg, displayReg, Option.map_eq_some_iff] at e
    obtain ⟨j, e, rfl⟩ := e
    exact localIndex_lt (by decide) e
  | keyboard =>
    simp only [kindReg, keyboardReg, Option.map_eq_some_iff] at e
    obtain ⟨j, -, rfl⟩ := e
    split <;> trivial
  | terminal =>
    simp only [kindReg, terminalReg, Option.map_eq_some_iff] at e
    obtain ⟨j, -, rfl⟩ := e
    split <;> (try split) <;> (try split) <;> trivial
  | disk =>
    simp only [kindReg, diskReg] at e
    split at e
    · cases e; exact Nat.mod_lt _ (by decide)
    · simp only [Option.map_eq_some_iff] at e
      obtain ⟨j, -, rfl⟩ := e
      split <;> (try split) <;> (try split) <;> trivial
  | other => cases e; trivial

/-- The word that an address of a window selects (R94). -/
theorem deviceReg_of_window {cfg : Config} {pa : Word} {w : Window} (h : windowOf cfg pa = some w) :
    deviceReg cfg pa = kindReg w.kind cfg.devHoles ((pa.toNat - w.base) / 4) := by
  simp [deviceReg, h]

/-- A device word that an address selects lies inside its device. -/
theorem deviceReg_inside {cfg : Config} {pa : Word} {r : DevReg} (h : deviceReg cfg pa = some r) : r.inside := by
  unfold deviceReg at h
  split at h
  · exact kindReg_inside h
  · cases h

/-- A word write of a device word inside its device keeps the canonical form. -/
theorem Devices.wf_write {r : DevReg} (hr : r.inside) (v : Word) (n : Nat) {d : Devices} (h : d.wf = true) :
    (d.write r v n).wf = true := by
  have h' := (Devices.wf_iff d).1 h
  cases r with
  | displayCell k =>
    exact (Devices.wf_iff _).2 ⟨Cells.wf_put _ _ h'.1, Cells.within_put _ h'.2.1 (decide_eq_true (show k < 4096 from hr)), h'.2.2⟩
  | diskBuffer k =>
    simp only [Devices.write]
    split
    · refine (Devices.wf_iff _).2 ⟨h'.1, h'.2.1, Cells.wf_putWord _ _ h'.2.2.1, ?_, h'.2.2.2.2⟩
      have hk : k < 1024 := hr
      apply Cells.within_putWord _ h'.2.2.2.1 <;> simp <;> omega
    · exact Devices.wf_upset _ _ h
  | diskControl =>
    simp only [Devices.write, Disk.writeControl]
    split
    · split <;> exact Devices.wf_congr rfl rfl rfl h
    · exact Devices.wf_upset _ _ h
  | _ =>
    simp only [Devices.write]
    first
      | exact h
      | exact Devices.wf_upset _ _ h
      | exact Devices.wf_setTerminal _ _ h
      | (split <;> (try split) <;> first
          | exact h
          | exact Devices.wf_upset _ _ h)

/-- The end of a disk action keeps the buffer and the medium canonical. -/
theorem Disk.wf_finish (cfg : Config) (failed : Bool) (n : Nat) {k : Disk} (hb : k.buffer.wf = true)
    (hw : k.buffer.within (· < 4096) = true) (hm : k.medium.wf = true) :
    (k.finish cfg failed n).buffer.wf = true ∧ (k.finish cfg failed n).buffer.within (· < 4096) = true ∧
      (k.finish cfg failed n).medium.wf = true := by
  unfold Disk.finish
  simp only
  split
  · rename_i hs
    simp only [Disk.transferStated, Bool.and_eq_true, decide_eq_true_eq] at hs
    unfold Disk.transferred
    split
    · exact ⟨hb, hw, Cells.wf_putBytes _ _ hm⟩
    · refine ⟨Cells.wf_putBytes _ _ hb, Cells.within_putBytes _ _ hw ?_, hm⟩
      intro a ha
      simp only [Cells.bytes, List.length_map, List.length_range] at ha
      simp only [decide_eq_true_eq]
      omega
  · split
    · exact ⟨hb, hw, Devices.wf_freeMedium n⟩
    · exact ⟨(Devices.wf_freeBuffer n).1, (Devices.wf_freeBuffer n).2, hm⟩

/-- An event keeps the canonical form. -/
theorem Devices.wf_event (cfg : Config) (e : Event) (n : Nat) {d : Devices} (h : d.wf = true) :
    (d.event cfg e n).wf = true := by
  have h' := (Devices.wf_iff d).1 h
  cases e with
  | diskFinished failed =>
    simp only [Devices.event]
    split
    · exact (Devices.wf_iff _).2 ⟨h'.1, h'.2.1, Disk.wf_finish cfg failed n h'.2.2.1 h'.2.2.2.1 h'.2.2.2.2⟩
    · exact h
  | _ =>
    first
      | exact h
      | exact Devices.wf_setTerminal _ _ h

/-- The reset line leaves the devices canonical. -/
theorem Devices.wf_afterReset (n : Nat) {d : Devices} (h : d.wf = true) : (d.afterReset n).wf = true := by
  have h' := (Devices.wf_iff d).1 h
  refine (Devices.wf_iff _).2 ⟨(Devices.wf_freeDisplay n).1, (Devices.wf_freeDisplay n).2, (Devices.wf_freeBuffer _).1,
    (Devices.wf_freeBuffer _).2, ?_⟩
  simp only [Devices.afterReset]
  split
  · exact Devices.wf_freeMedium _
  · exact h'.2.2.2.2

end Sys2Proof.Machine
end

