-- ==== Sys2Proof/Laws/State.lean ====
section
/-! SUPPORT. One lemma per field and update of State, so that no proof unfolds a record update; register and TLB entry
reads after each update. -/

namespace Sys2Proof.Machine

@[simp] theorem State.setPc_regs (s : State) (v : Word) : (s.setPc v).regs = s.regs := rfl
@[simp] theorem State.setPc_pc (s : State) (v : Word) : (s.setPc v).pc = v := rfl
@[simp] theorem State.setPc_psw (s : State) (v : Word) : (s.setPc v).psw = s.psw := rfl
@[simp] theorem State.setPc_tlbIndex (s : State) (v : Word) : (s.setPc v).tlbIndex = s.tlbIndex := rfl
@[simp] theorem State.setPc_tlbHigh (s : State) (v : Word) : (s.setPc v).tlbHigh = s.tlbHigh := rfl
@[simp] theorem State.setPc_tlbLow (s : State) (v : Word) : (s.setPc v).tlbLow = s.tlbLow := rfl
@[simp] theorem State.setPc_tlbBad (s : State) (v : Word) : (s.setPc v).tlbBad = s.tlbBad := rfl
@[simp] theorem State.setPc_tlb (s : State) (v : Word) : (s.setPc v).tlb = s.tlb := rfl
@[simp] theorem State.setPc_rng (s : State) (v : Word) : (s.setPc v).rng = s.rng := rfl
@[simp] theorem State.setPc_mem (s : State) (v : Word) : (s.setPc v).mem = s.mem := rfl
@[simp] theorem State.setPc_dev (s : State) (v : Word) : (s.setPc v).dev = s.dev := rfl
@[simp] theorem State.setPc_extIrq (s : State) (v : Word) : (s.setPc v).extIrq = s.extIrq := rfl
@[simp] theorem State.setPc_cfg (s : State) (v : Word) : (s.setPc v).cfg = s.cfg := rfl
@[simp] theorem State.setPc_inputs (s : State) (v : Word) : (s.setPc v).inputs = s.inputs := rfl
@[simp] theorem State.setPc_bus (s : State) (v : Word) : (s.setPc v).bus = s.bus := rfl
@[simp] theorem State.setPc_draws (s : State) (v : Word) : (s.setPc v).draws = s.draws := rfl
@[simp] theorem State.setPc_reg (s : State) (v : Word) (k : Reg) : (s.setPc v).reg k = s.reg k := rfl
@[simp] theorem State.setPc_entry (s : State) (v : Word) (i : BitVec 5) : (s.setPc v).entry i = s.entry i := rfl
@[simp] theorem State.setPc_hits (s : State) (v : Word) (p : Page) : (s.setPc v).hits p = s.hits p := rfl

@[simp] theorem State.setPsw_regs (s : State) (v : Psw) : (s.setPsw v).regs = s.regs := rfl
@[simp] theorem State.setPsw_pc (s : State) (v : Psw) : (s.setPsw v).pc = s.pc := rfl
@[simp] theorem State.setPsw_psw (s : State) (v : Psw) : (s.setPsw v).psw = v := rfl
@[simp] theorem State.setPsw_tlbIndex (s : State) (v : Psw) : (s.setPsw v).tlbIndex = s.tlbIndex := rfl
@[simp] theorem State.setPsw_tlbHigh (s : State) (v : Psw) : (s.setPsw v).tlbHigh = s.tlbHigh := rfl
@[simp] theorem State.setPsw_tlbLow (s : State) (v : Psw) : (s.setPsw v).tlbLow = s.tlbLow := rfl
@[simp] theorem State.setPsw_tlbBad (s : State) (v : Psw) : (s.setPsw v).tlbBad = s.tlbBad := rfl
@[simp] theorem State.setPsw_tlb (s : State) (v : Psw) : (s.setPsw v).tlb = s.tlb := rfl
@[simp] theorem State.setPsw_rng (s : State) (v : Psw) : (s.setPsw v).rng = s.rng := rfl
@[simp] theorem State.setPsw_mem (s : State) (v : Psw) : (s.setPsw v).mem = s.mem := rfl
@[simp] theorem State.setPsw_dev (s : State) (v : Psw) : (s.setPsw v).dev = s.dev := rfl
@[simp] theorem State.setPsw_extIrq (s : State) (v : Psw) : (s.setPsw v).extIrq = s.extIrq := rfl
@[simp] theorem State.setPsw_cfg (s : State) (v : Psw) : (s.setPsw v).cfg = s.cfg := rfl
@[simp] theorem State.setPsw_inputs (s : State) (v : Psw) : (s.setPsw v).inputs = s.inputs := rfl
@[simp] theorem State.setPsw_bus (s : State) (v : Psw) : (s.setPsw v).bus = s.bus := rfl
@[simp] theorem State.setPsw_draws (s : State) (v : Psw) : (s.setPsw v).draws = s.draws := rfl
@[simp] theorem State.setPsw_reg (s : State) (v : Psw) (k : Reg) : (s.setPsw v).reg k = s.reg k := rfl
@[simp] theorem State.setPsw_entry (s : State) (v : Psw) (i : BitVec 5) : (s.setPsw v).entry i = s.entry i := rfl
@[simp] theorem State.setPsw_hits (s : State) (v : Psw) (p : Page) : (s.setPsw v).hits p = s.hits p := rfl

@[simp] theorem State.setIndex_regs (s : State) (v : TlbIndex) : (s.setIndex v).regs = s.regs := rfl
@[simp] theorem State.setIndex_pc (s : State) (v : TlbIndex) : (s.setIndex v).pc = s.pc := rfl
@[simp] theorem State.setIndex_psw (s : State) (v : TlbIndex) : (s.setIndex v).psw = s.psw := rfl
@[simp] theorem State.setIndex_tlbIndex (s : State) (v : TlbIndex) : (s.setIndex v).tlbIndex = v := rfl
@[simp] theorem State.setIndex_tlbHigh (s : State) (v : TlbIndex) : (s.setIndex v).tlbHigh = s.tlbHigh := rfl
@[simp] theorem State.setIndex_tlbLow (s : State) (v : TlbIndex) : (s.setIndex v).tlbLow = s.tlbLow := rfl
@[simp] theorem State.setIndex_tlbBad (s : State) (v : TlbIndex) : (s.setIndex v).tlbBad = s.tlbBad := rfl
@[simp] theorem State.setIndex_tlb (s : State) (v : TlbIndex) : (s.setIndex v).tlb = s.tlb := rfl
@[simp] theorem State.setIndex_rng (s : State) (v : TlbIndex) : (s.setIndex v).rng = s.rng := rfl
@[simp] theorem State.setIndex_mem (s : State) (v : TlbIndex) : (s.setIndex v).mem = s.mem := rfl
@[simp] theorem State.setIndex_dev (s : State) (v : TlbIndex) : (s.setIndex v).dev = s.dev := rfl
@[simp] theorem State.setIndex_extIrq (s : State) (v : TlbIndex) : (s.setIndex v).extIrq = s.extIrq := rfl
@[simp] theorem State.setIndex_cfg (s : State) (v : TlbIndex) : (s.setIndex v).cfg = s.cfg := rfl
@[simp] theorem State.setIndex_inputs (s : State) (v : TlbIndex) : (s.setIndex v).inputs = s.inputs := rfl
@[simp] theorem State.setIndex_bus (s : State) (v : TlbIndex) : (s.setIndex v).bus = s.bus := rfl
@[simp] theorem State.setIndex_draws (s : State) (v : TlbIndex) : (s.setIndex v).draws = s.draws := rfl
@[simp] theorem State.setIndex_reg (s : State) (v : TlbIndex) (k : Reg) : (s.setIndex v).reg k = s.reg k := rfl
@[simp] theorem State.setIndex_entry (s : State) (v : TlbIndex) (i : BitVec 5) : (s.setIndex v).entry i = s.entry i := rfl
@[simp] theorem State.setIndex_hits (s : State) (v : TlbIndex) (p : Page) : (s.setIndex v).hits p = s.hits p := rfl

@[simp] theorem State.setHigh_regs (s : State) (v : TlbHigh) : (s.setHigh v).regs = s.regs := rfl
@[simp] theorem State.setHigh_pc (s : State) (v : TlbHigh) : (s.setHigh v).pc = s.pc := rfl
@[simp] theorem State.setHigh_psw (s : State) (v : TlbHigh) : (s.setHigh v).psw = s.psw := rfl
@[simp] theorem State.setHigh_tlbIndex (s : State) (v : TlbHigh) : (s.setHigh v).tlbIndex = s.tlbIndex := rfl
@[simp] theorem State.setHigh_tlbHigh (s : State) (v : TlbHigh) : (s.setHigh v).tlbHigh = v := rfl
@[simp] theorem State.setHigh_tlbLow (s : State) (v : TlbHigh) : (s.setHigh v).tlbLow = s.tlbLow := rfl
@[simp] theorem State.setHigh_tlbBad (s : State) (v : TlbHigh) : (s.setHigh v).tlbBad = s.tlbBad := rfl
@[simp] theorem State.setHigh_tlb (s : State) (v : TlbHigh) : (s.setHigh v).tlb = s.tlb := rfl
@[simp] theorem State.setHigh_rng (s : State) (v : TlbHigh) : (s.setHigh v).rng = s.rng := rfl
@[simp] theorem State.setHigh_mem (s : State) (v : TlbHigh) : (s.setHigh v).mem = s.mem := rfl
@[simp] theorem State.setHigh_dev (s : State) (v : TlbHigh) : (s.setHigh v).dev = s.dev := rfl
@[simp] theorem State.setHigh_extIrq (s : State) (v : TlbHigh) : (s.setHigh v).extIrq = s.extIrq := rfl
@[simp] theorem State.setHigh_cfg (s : State) (v : TlbHigh) : (s.setHigh v).cfg = s.cfg := rfl
@[simp] theorem State.setHigh_inputs (s : State) (v : TlbHigh) : (s.setHigh v).inputs = s.inputs := rfl
@[simp] theorem State.setHigh_bus (s : State) (v : TlbHigh) : (s.setHigh v).bus = s.bus := rfl
@[simp] theorem State.setHigh_draws (s : State) (v : TlbHigh) : (s.setHigh v).draws = s.draws := rfl
@[simp] theorem State.setHigh_reg (s : State) (v : TlbHigh) (k : Reg) : (s.setHigh v).reg k = s.reg k := rfl
@[simp] theorem State.setHigh_entry (s : State) (v : TlbHigh) (i : BitVec 5) : (s.setHigh v).entry i = s.entry i := rfl
@[simp] theorem State.setHigh_hits (s : State) (v : TlbHigh) (p : Page) : (s.setHigh v).hits p = s.hits p := rfl

@[simp] theorem State.setLow_regs (s : State) (v : TlbLow) : (s.setLow v).regs = s.regs := rfl
@[simp] theorem State.setLow_pc (s : State) (v : TlbLow) : (s.setLow v).pc = s.pc := rfl
@[simp] theorem State.setLow_psw (s : State) (v : TlbLow) : (s.setLow v).psw = s.psw := rfl
@[simp] theorem State.setLow_tlbIndex (s : State) (v : TlbLow) : (s.setLow v).tlbIndex = s.tlbIndex := rfl
@[simp] theorem State.setLow_tlbHigh (s : State) (v : TlbLow) : (s.setLow v).tlbHigh = s.tlbHigh := rfl
@[simp] theorem State.setLow_tlbLow (s : State) (v : TlbLow) : (s.setLow v).tlbLow = v := rfl
@[simp] theorem State.setLow_tlbBad (s : State) (v : TlbLow) : (s.setLow v).tlbBad = s.tlbBad := rfl
@[simp] theorem State.setLow_tlb (s : State) (v : TlbLow) : (s.setLow v).tlb = s.tlb := rfl
@[simp] theorem State.setLow_rng (s : State) (v : TlbLow) : (s.setLow v).rng = s.rng := rfl
@[simp] theorem State.setLow_mem (s : State) (v : TlbLow) : (s.setLow v).mem = s.mem := rfl
@[simp] theorem State.setLow_dev (s : State) (v : TlbLow) : (s.setLow v).dev = s.dev := rfl
@[simp] theorem State.setLow_extIrq (s : State) (v : TlbLow) : (s.setLow v).extIrq = s.extIrq := rfl
@[simp] theorem State.setLow_cfg (s : State) (v : TlbLow) : (s.setLow v).cfg = s.cfg := rfl
@[simp] theorem State.setLow_inputs (s : State) (v : TlbLow) : (s.setLow v).inputs = s.inputs := rfl
@[simp] theorem State.setLow_bus (s : State) (v : TlbLow) : (s.setLow v).bus = s.bus := rfl
@[simp] theorem State.setLow_draws (s : State) (v : TlbLow) : (s.setLow v).draws = s.draws := rfl
@[simp] theorem State.setLow_reg (s : State) (v : TlbLow) (k : Reg) : (s.setLow v).reg k = s.reg k := rfl
@[simp] theorem State.setLow_entry (s : State) (v : TlbLow) (i : BitVec 5) : (s.setLow v).entry i = s.entry i := rfl
@[simp] theorem State.setLow_hits (s : State) (v : TlbLow) (p : Page) : (s.setLow v).hits p = s.hits p := rfl

@[simp] theorem State.setBad_regs (s : State) (v : Word) : (s.setBad v).regs = s.regs := rfl
@[simp] theorem State.setBad_pc (s : State) (v : Word) : (s.setBad v).pc = s.pc := rfl
@[simp] theorem State.setBad_psw (s : State) (v : Word) : (s.setBad v).psw = s.psw := rfl
@[simp] theorem State.setBad_tlbIndex (s : State) (v : Word) : (s.setBad v).tlbIndex = s.tlbIndex := rfl
@[simp] theorem State.setBad_tlbHigh (s : State) (v : Word) : (s.setBad v).tlbHigh = s.tlbHigh := rfl
@[simp] theorem State.setBad_tlbLow (s : State) (v : Word) : (s.setBad v).tlbLow = s.tlbLow := rfl
@[simp] theorem State.setBad_tlbBad (s : State) (v : Word) : (s.setBad v).tlbBad = v := rfl
@[simp] theorem State.setBad_tlb (s : State) (v : Word) : (s.setBad v).tlb = s.tlb := rfl
@[simp] theorem State.setBad_rng (s : State) (v : Word) : (s.setBad v).rng = s.rng := rfl
@[simp] theorem State.setBad_mem (s : State) (v : Word) : (s.setBad v).mem = s.mem := rfl
@[simp] theorem State.setBad_dev (s : State) (v : Word) : (s.setBad v).dev = s.dev := rfl
@[simp] theorem State.setBad_extIrq (s : State) (v : Word) : (s.setBad v).extIrq = s.extIrq := rfl
@[simp] theorem State.setBad_cfg (s : State) (v : Word) : (s.setBad v).cfg = s.cfg := rfl
@[simp] theorem State.setBad_inputs (s : State) (v : Word) : (s.setBad v).inputs = s.inputs := rfl
@[simp] theorem State.setBad_bus (s : State) (v : Word) : (s.setBad v).bus = s.bus := rfl
@[simp] theorem State.setBad_draws (s : State) (v : Word) : (s.setBad v).draws = s.draws := rfl
@[simp] theorem State.setBad_reg (s : State) (v : Word) (k : Reg) : (s.setBad v).reg k = s.reg k := rfl
@[simp] theorem State.setBad_entry (s : State) (v : Word) (i : BitVec 5) : (s.setBad v).entry i = s.entry i := rfl
@[simp] theorem State.setBad_hits (s : State) (v : Word) (p : Page) : (s.setBad v).hits p = s.hits p := rfl

@[simp] theorem State.setRng_regs (s : State) (v : Nat) : (s.setRng v).regs = s.regs := rfl
@[simp] theorem State.setRng_pc (s : State) (v : Nat) : (s.setRng v).pc = s.pc := rfl
@[simp] theorem State.setRng_psw (s : State) (v : Nat) : (s.setRng v).psw = s.psw := rfl
@[simp] theorem State.setRng_tlbIndex (s : State) (v : Nat) : (s.setRng v).tlbIndex = s.tlbIndex := rfl
@[simp] theorem State.setRng_tlbHigh (s : State) (v : Nat) : (s.setRng v).tlbHigh = s.tlbHigh := rfl
@[simp] theorem State.setRng_tlbLow (s : State) (v : Nat) : (s.setRng v).tlbLow = s.tlbLow := rfl
@[simp] theorem State.setRng_tlbBad (s : State) (v : Nat) : (s.setRng v).tlbBad = s.tlbBad := rfl
@[simp] theorem State.setRng_tlb (s : State) (v : Nat) : (s.setRng v).tlb = s.tlb := rfl
@[simp] theorem State.setRng_rng (s : State) (v : Nat) : (s.setRng v).rng = v := rfl
@[simp] theorem State.setRng_mem (s : State) (v : Nat) : (s.setRng v).mem = s.mem := rfl
@[simp] theorem State.setRng_dev (s : State) (v : Nat) : (s.setRng v).dev = s.dev := rfl
@[simp] theorem State.setRng_extIrq (s : State) (v : Nat) : (s.setRng v).extIrq = s.extIrq := rfl
@[simp] theorem State.setRng_cfg (s : State) (v : Nat) : (s.setRng v).cfg = s.cfg := rfl
@[simp] theorem State.setRng_inputs (s : State) (v : Nat) : (s.setRng v).inputs = s.inputs := rfl
@[simp] theorem State.setRng_bus (s : State) (v : Nat) : (s.setRng v).bus = s.bus := rfl
@[simp] theorem State.setRng_draws (s : State) (v : Nat) : (s.setRng v).draws = s.draws := rfl
@[simp] theorem State.setRng_reg (s : State) (v : Nat) (k : Reg) : (s.setRng v).reg k = s.reg k := rfl
@[simp] theorem State.setRng_entry (s : State) (v : Nat) (i : BitVec 5) : (s.setRng v).entry i = s.entry i := rfl
@[simp] theorem State.setRng_hits (s : State) (v : Nat) (p : Page) : (s.setRng v).hits p = s.hits p := rfl

@[simp] theorem State.setMem_regs (s : State) (v : Memory) : (s.setMem v).regs = s.regs := rfl
@[simp] theorem State.setMem_pc (s : State) (v : Memory) : (s.setMem v).pc = s.pc := rfl
@[simp] theorem State.setMem_psw (s : State) (v : Memory) : (s.setMem v).psw = s.psw := rfl
@[simp] theorem State.setMem_tlbIndex (s : State) (v : Memory) : (s.setMem v).tlbIndex = s.tlbIndex := rfl
@[simp] theorem State.setMem_tlbHigh (s : State) (v : Memory) : (s.setMem v).tlbHigh = s.tlbHigh := rfl
@[simp] theorem State.setMem_tlbLow (s : State) (v : Memory) : (s.setMem v).tlbLow = s.tlbLow := rfl
@[simp] theorem State.setMem_tlbBad (s : State) (v : Memory) : (s.setMem v).tlbBad = s.tlbBad := rfl
@[simp] theorem State.setMem_tlb (s : State) (v : Memory) : (s.setMem v).tlb = s.tlb := rfl
@[simp] theorem State.setMem_rng (s : State) (v : Memory) : (s.setMem v).rng = s.rng := rfl
@[simp] theorem State.setMem_mem (s : State) (v : Memory) : (s.setMem v).mem = v := rfl
@[simp] theorem State.setMem_dev (s : State) (v : Memory) : (s.setMem v).dev = s.dev := rfl
@[simp] theorem State.setMem_extIrq (s : State) (v : Memory) : (s.setMem v).extIrq = s.extIrq := rfl
@[simp] theorem State.setMem_cfg (s : State) (v : Memory) : (s.setMem v).cfg = s.cfg := rfl
@[simp] theorem State.setMem_inputs (s : State) (v : Memory) : (s.setMem v).inputs = s.inputs := rfl
@[simp] theorem State.setMem_bus (s : State) (v : Memory) : (s.setMem v).bus = s.bus := rfl
@[simp] theorem State.setMem_draws (s : State) (v : Memory) : (s.setMem v).draws = s.draws := rfl
@[simp] theorem State.setMem_reg (s : State) (v : Memory) (k : Reg) : (s.setMem v).reg k = s.reg k := rfl
@[simp] theorem State.setMem_entry (s : State) (v : Memory) (i : BitVec 5) : (s.setMem v).entry i = s.entry i := rfl
@[simp] theorem State.setMem_hits (s : State) (v : Memory) (p : Page) : (s.setMem v).hits p = s.hits p := rfl

@[simp] theorem State.setDev_regs (s : State) (v : Devices) : (s.setDev v).regs = s.regs := rfl
@[simp] theorem State.setDev_pc (s : State) (v : Devices) : (s.setDev v).pc = s.pc := rfl
@[simp] theorem State.setDev_psw (s : State) (v : Devices) : (s.setDev v).psw = s.psw := rfl
@[simp] theorem State.setDev_tlbIndex (s : State) (v : Devices) : (s.setDev v).tlbIndex = s.tlbIndex := rfl
@[simp] theorem State.setDev_tlbHigh (s : State) (v : Devices) : (s.setDev v).tlbHigh = s.tlbHigh := rfl
@[simp] theorem State.setDev_tlbLow (s : State) (v : Devices) : (s.setDev v).tlbLow = s.tlbLow := rfl
@[simp] theorem State.setDev_tlbBad (s : State) (v : Devices) : (s.setDev v).tlbBad = s.tlbBad := rfl
@[simp] theorem State.setDev_tlb (s : State) (v : Devices) : (s.setDev v).tlb = s.tlb := rfl
@[simp] theorem State.setDev_rng (s : State) (v : Devices) : (s.setDev v).rng = s.rng := rfl
@[simp] theorem State.setDev_mem (s : State) (v : Devices) : (s.setDev v).mem = s.mem := rfl
@[simp] theorem State.setDev_dev (s : State) (v : Devices) : (s.setDev v).dev = v := rfl
@[simp] theorem State.setDev_extIrq (s : State) (v : Devices) : (s.setDev v).extIrq = s.extIrq := rfl
@[simp] theorem State.setDev_cfg (s : State) (v : Devices) : (s.setDev v).cfg = s.cfg := rfl
@[simp] theorem State.setDev_inputs (s : State) (v : Devices) : (s.setDev v).inputs = s.inputs := rfl
@[simp] theorem State.setDev_bus (s : State) (v : Devices) : (s.setDev v).bus = s.bus := rfl
@[simp] theorem State.setDev_draws (s : State) (v : Devices) : (s.setDev v).draws = s.draws := rfl
@[simp] theorem State.setDev_reg (s : State) (v : Devices) (k : Reg) : (s.setDev v).reg k = s.reg k := rfl
@[simp] theorem State.setDev_entry (s : State) (v : Devices) (i : BitVec 5) : (s.setDev v).entry i = s.entry i := rfl
@[simp] theorem State.setDev_hits (s : State) (v : Devices) (p : Page) : (s.setDev v).hits p = s.hits p := rfl

@[simp] theorem State.setExtIrq_regs (s : State) (v : BitVec 16) : (s.setExtIrq v).regs = s.regs := rfl
@[simp] theorem State.setExtIrq_pc (s : State) (v : BitVec 16) : (s.setExtIrq v).pc = s.pc := rfl
@[simp] theorem State.setExtIrq_psw (s : State) (v : BitVec 16) : (s.setExtIrq v).psw = s.psw := rfl
@[simp] theorem State.setExtIrq_tlbIndex (s : State) (v : BitVec 16) : (s.setExtIrq v).tlbIndex = s.tlbIndex := rfl
@[simp] theorem State.setExtIrq_tlbHigh (s : State) (v : BitVec 16) : (s.setExtIrq v).tlbHigh = s.tlbHigh := rfl
@[simp] theorem State.setExtIrq_tlbLow (s : State) (v : BitVec 16) : (s.setExtIrq v).tlbLow = s.tlbLow := rfl
@[simp] theorem State.setExtIrq_tlbBad (s : State) (v : BitVec 16) : (s.setExtIrq v).tlbBad = s.tlbBad := rfl
@[simp] theorem State.setExtIrq_tlb (s : State) (v : BitVec 16) : (s.setExtIrq v).tlb = s.tlb := rfl
@[simp] theorem State.setExtIrq_rng (s : State) (v : BitVec 16) : (s.setExtIrq v).rng = s.rng := rfl
@[simp] theorem State.setExtIrq_mem (s : State) (v : BitVec 16) : (s.setExtIrq v).mem = s.mem := rfl
@[simp] theorem State.setExtIrq_dev (s : State) (v : BitVec 16) : (s.setExtIrq v).dev = s.dev := rfl
@[simp] theorem State.setExtIrq_extIrq (s : State) (v : BitVec 16) : (s.setExtIrq v).extIrq = v := rfl
@[simp] theorem State.setExtIrq_cfg (s : State) (v : BitVec 16) : (s.setExtIrq v).cfg = s.cfg := rfl
@[simp] theorem State.setExtIrq_inputs (s : State) (v : BitVec 16) : (s.setExtIrq v).inputs = s.inputs := rfl
@[simp] theorem State.setExtIrq_bus (s : State) (v : BitVec 16) : (s.setExtIrq v).bus = s.bus := rfl
@[simp] theorem State.setExtIrq_draws (s : State) (v : BitVec 16) : (s.setExtIrq v).draws = s.draws := rfl
@[simp] theorem State.setExtIrq_reg (s : State) (v : BitVec 16) (k : Reg) : (s.setExtIrq v).reg k = s.reg k := rfl
@[simp] theorem State.setExtIrq_entry (s : State) (v : BitVec 16) (i : BitVec 5) : (s.setExtIrq v).entry i = s.entry i := rfl
@[simp] theorem State.setExtIrq_hits (s : State) (v : BitVec 16) (p : Page) : (s.setExtIrq v).hits p = s.hits p := rfl

@[simp] theorem State.setInputs_regs (s : State) (v : List TurnInput) : (s.setInputs v).regs = s.regs := rfl
@[simp] theorem State.setInputs_pc (s : State) (v : List TurnInput) : (s.setInputs v).pc = s.pc := rfl
@[simp] theorem State.setInputs_psw (s : State) (v : List TurnInput) : (s.setInputs v).psw = s.psw := rfl
@[simp] theorem State.setInputs_tlbIndex (s : State) (v : List TurnInput) : (s.setInputs v).tlbIndex = s.tlbIndex := rfl
@[simp] theorem State.setInputs_tlbHigh (s : State) (v : List TurnInput) : (s.setInputs v).tlbHigh = s.tlbHigh := rfl
@[simp] theorem State.setInputs_tlbLow (s : State) (v : List TurnInput) : (s.setInputs v).tlbLow = s.tlbLow := rfl
@[simp] theorem State.setInputs_tlbBad (s : State) (v : List TurnInput) : (s.setInputs v).tlbBad = s.tlbBad := rfl
@[simp] theorem State.setInputs_tlb (s : State) (v : List TurnInput) : (s.setInputs v).tlb = s.tlb := rfl
@[simp] theorem State.setInputs_rng (s : State) (v : List TurnInput) : (s.setInputs v).rng = s.rng := rfl
@[simp] theorem State.setInputs_mem (s : State) (v : List TurnInput) : (s.setInputs v).mem = s.mem := rfl
@[simp] theorem State.setInputs_dev (s : State) (v : List TurnInput) : (s.setInputs v).dev = s.dev := rfl
@[simp] theorem State.setInputs_extIrq (s : State) (v : List TurnInput) : (s.setInputs v).extIrq = s.extIrq := rfl
@[simp] theorem State.setInputs_cfg (s : State) (v : List TurnInput) : (s.setInputs v).cfg = s.cfg := rfl
@[simp] theorem State.setInputs_inputs (s : State) (v : List TurnInput) : (s.setInputs v).inputs = v := rfl
@[simp] theorem State.setInputs_bus (s : State) (v : List TurnInput) : (s.setInputs v).bus = s.bus := rfl
@[simp] theorem State.setInputs_draws (s : State) (v : List TurnInput) : (s.setInputs v).draws = s.draws := rfl
@[simp] theorem State.setInputs_reg (s : State) (v : List TurnInput) (k : Reg) : (s.setInputs v).reg k = s.reg k := rfl
@[simp] theorem State.setInputs_entry (s : State) (v : List TurnInput) (i : BitVec 5) : (s.setInputs v).entry i = s.entry i := rfl
@[simp] theorem State.setInputs_hits (s : State) (v : List TurnInput) (p : Page) : (s.setInputs v).hits p = s.hits p := rfl

@[simp] theorem State.setBus_regs (s : State) (v : List BusCycle) : (s.setBus v).regs = s.regs := rfl
@[simp] theorem State.setBus_pc (s : State) (v : List BusCycle) : (s.setBus v).pc = s.pc := rfl
@[simp] theorem State.setBus_psw (s : State) (v : List BusCycle) : (s.setBus v).psw = s.psw := rfl
@[simp] theorem State.setBus_tlbIndex (s : State) (v : List BusCycle) : (s.setBus v).tlbIndex = s.tlbIndex := rfl
@[simp] theorem State.setBus_tlbHigh (s : State) (v : List BusCycle) : (s.setBus v).tlbHigh = s.tlbHigh := rfl
@[simp] theorem State.setBus_tlbLow (s : State) (v : List BusCycle) : (s.setBus v).tlbLow = s.tlbLow := rfl
@[simp] theorem State.setBus_tlbBad (s : State) (v : List BusCycle) : (s.setBus v).tlbBad = s.tlbBad := rfl
@[simp] theorem State.setBus_tlb (s : State) (v : List BusCycle) : (s.setBus v).tlb = s.tlb := rfl
@[simp] theorem State.setBus_rng (s : State) (v : List BusCycle) : (s.setBus v).rng = s.rng := rfl
@[simp] theorem State.setBus_mem (s : State) (v : List BusCycle) : (s.setBus v).mem = s.mem := rfl
@[simp] theorem State.setBus_dev (s : State) (v : List BusCycle) : (s.setBus v).dev = s.dev := rfl
@[simp] theorem State.setBus_extIrq (s : State) (v : List BusCycle) : (s.setBus v).extIrq = s.extIrq := rfl
@[simp] theorem State.setBus_cfg (s : State) (v : List BusCycle) : (s.setBus v).cfg = s.cfg := rfl
@[simp] theorem State.setBus_inputs (s : State) (v : List BusCycle) : (s.setBus v).inputs = s.inputs := rfl
@[simp] theorem State.setBus_bus (s : State) (v : List BusCycle) : (s.setBus v).bus = v := rfl
@[simp] theorem State.setBus_draws (s : State) (v : List BusCycle) : (s.setBus v).draws = s.draws := rfl
@[simp] theorem State.setBus_reg (s : State) (v : List BusCycle) (k : Reg) : (s.setBus v).reg k = s.reg k := rfl
@[simp] theorem State.setBus_entry (s : State) (v : List BusCycle) (i : BitVec 5) : (s.setBus v).entry i = s.entry i := rfl
@[simp] theorem State.setBus_hits (s : State) (v : List BusCycle) (p : Page) : (s.setBus v).hits p = s.hits p := rfl

@[simp] theorem State.drawn_regs (s : State) (k : Nat) : (s.drawn k).regs = s.regs := rfl
@[simp] theorem State.drawn_pc (s : State) (k : Nat) : (s.drawn k).pc = s.pc := rfl
@[simp] theorem State.drawn_psw (s : State) (k : Nat) : (s.drawn k).psw = s.psw := rfl
@[simp] theorem State.drawn_tlbIndex (s : State) (k : Nat) : (s.drawn k).tlbIndex = s.tlbIndex := rfl
@[simp] theorem State.drawn_tlbHigh (s : State) (k : Nat) : (s.drawn k).tlbHigh = s.tlbHigh := rfl
@[simp] theorem State.drawn_tlbLow (s : State) (k : Nat) : (s.drawn k).tlbLow = s.tlbLow := rfl
@[simp] theorem State.drawn_tlbBad (s : State) (k : Nat) : (s.drawn k).tlbBad = s.tlbBad := rfl
@[simp] theorem State.drawn_tlb (s : State) (k : Nat) : (s.drawn k).tlb = s.tlb := rfl
@[simp] theorem State.drawn_rng (s : State) (k : Nat) : (s.drawn k).rng = s.rng := rfl
@[simp] theorem State.drawn_mem (s : State) (k : Nat) : (s.drawn k).mem = s.mem := rfl
@[simp] theorem State.drawn_dev (s : State) (k : Nat) : (s.drawn k).dev = s.dev := rfl
@[simp] theorem State.drawn_extIrq (s : State) (k : Nat) : (s.drawn k).extIrq = s.extIrq := rfl
@[simp] theorem State.drawn_cfg (s : State) (k : Nat) : (s.drawn k).cfg = s.cfg := rfl
@[simp] theorem State.drawn_inputs (s : State) (k : Nat) : (s.drawn k).inputs = s.inputs := rfl
@[simp] theorem State.drawn_bus (s : State) (k : Nat) : (s.drawn k).bus = s.bus := rfl
@[simp] theorem State.drawn_draws (s : State) (k : Nat) : (s.drawn k).draws = s.draws + k := rfl
@[simp] theorem State.drawn_reg (s : State) (k : Nat) (r : Reg) : (s.drawn k).reg r = s.reg r := rfl
@[simp] theorem State.drawn_entry (s : State) (k : Nat) (i : BitVec 5) : (s.drawn k).entry i = s.entry i := rfl
@[simp] theorem State.drawn_hits (s : State) (k : Nat) (p : Page) : (s.drawn k).hits p = s.hits p := rfl

@[simp] theorem State.addCycle_regs (s : State) (c : BusCycle) : (s.addCycle c).regs = s.regs := rfl
@[simp] theorem State.addCycle_pc (s : State) (c : BusCycle) : (s.addCycle c).pc = s.pc := rfl
@[simp] theorem State.addCycle_psw (s : State) (c : BusCycle) : (s.addCycle c).psw = s.psw := rfl
@[simp] theorem State.addCycle_tlbIndex (s : State) (c : BusCycle) : (s.addCycle c).tlbIndex = s.tlbIndex := rfl
@[simp] theorem State.addCycle_tlbHigh (s : State) (c : BusCycle) : (s.addCycle c).tlbHigh = s.tlbHigh := rfl
@[simp] theorem State.addCycle_tlbLow (s : State) (c : BusCycle) : (s.addCycle c).tlbLow = s.tlbLow := rfl
@[simp] theorem State.addCycle_tlbBad (s : State) (c : BusCycle) : (s.addCycle c).tlbBad = s.tlbBad := rfl
@[simp] theorem State.addCycle_tlb (s : State) (c : BusCycle) : (s.addCycle c).tlb = s.tlb := rfl
@[simp] theorem State.addCycle_rng (s : State) (c : BusCycle) : (s.addCycle c).rng = s.rng := rfl
@[simp] theorem State.addCycle_mem (s : State) (c : BusCycle) : (s.addCycle c).mem = s.mem := rfl
@[simp] theorem State.addCycle_dev (s : State) (c : BusCycle) : (s.addCycle c).dev = s.dev := rfl
@[simp] theorem State.addCycle_extIrq (s : State) (c : BusCycle) : (s.addCycle c).extIrq = s.extIrq := rfl
@[simp] theorem State.addCycle_cfg (s : State) (c : BusCycle) : (s.addCycle c).cfg = s.cfg := rfl
@[simp] theorem State.addCycle_inputs (s : State) (c : BusCycle) : (s.addCycle c).inputs = s.inputs := rfl
@[simp] theorem State.addCycle_bus (s : State) (c : BusCycle) : (s.addCycle c).bus = s.bus ++ [c] := rfl
@[simp] theorem State.addCycle_draws (s : State) (c : BusCycle) : (s.addCycle c).draws = s.draws := rfl
@[simp] theorem State.addCycle_reg (s : State) (c : BusCycle) (r : Reg) : (s.addCycle c).reg r = s.reg r := rfl
@[simp] theorem State.addCycle_entry (s : State) (c : BusCycle) (i : BitVec 5) : (s.addCycle c).entry i = s.entry i := rfl
@[simp] theorem State.addCycle_hits (s : State) (c : BusCycle) (p : Page) : (s.addCycle c).hits p = s.hits p := rfl

@[simp] theorem State.setEntry_regs (s : State) (i : BitVec 5) (e : TlbEntry) : (s.setEntry i e).regs = s.regs := rfl
@[simp] theorem State.setEntry_pc (s : State) (i : BitVec 5) (e : TlbEntry) : (s.setEntry i e).pc = s.pc := rfl
@[simp] theorem State.setEntry_psw (s : State) (i : BitVec 5) (e : TlbEntry) : (s.setEntry i e).psw = s.psw := rfl
@[simp] theorem State.setEntry_tlbIndex (s : State) (i : BitVec 5) (e : TlbEntry) : (s.setEntry i e).tlbIndex = s.tlbIndex := rfl
@[simp] theorem State.setEntry_tlbHigh (s : State) (i : BitVec 5) (e : TlbEntry) : (s.setEntry i e).tlbHigh = s.tlbHigh := rfl
@[simp] theorem State.setEntry_tlbLow (s : State) (i : BitVec 5) (e : TlbEntry) : (s.setEntry i e).tlbLow = s.tlbLow := rfl
@[simp] theorem State.setEntry_tlbBad (s : State) (i : BitVec 5) (e : TlbEntry) : (s.setEntry i e).tlbBad = s.tlbBad := rfl
@[simp] theorem State.setEntry_rng (s : State) (i : BitVec 5) (e : TlbEntry) : (s.setEntry i e).rng = s.rng := rfl
@[simp] theorem State.setEntry_mem (s : State) (i : BitVec 5) (e : TlbEntry) : (s.setEntry i e).mem = s.mem := rfl
@[simp] theorem State.setEntry_dev (s : State) (i : BitVec 5) (e : TlbEntry) : (s.setEntry i e).dev = s.dev := rfl
@[simp] theorem State.setEntry_extIrq (s : State) (i : BitVec 5) (e : TlbEntry) : (s.setEntry i e).extIrq = s.extIrq := rfl
@[simp] theorem State.setEntry_cfg (s : State) (i : BitVec 5) (e : TlbEntry) : (s.setEntry i e).cfg = s.cfg := rfl
@[simp] theorem State.setEntry_inputs (s : State) (i : BitVec 5) (e : TlbEntry) : (s.setEntry i e).inputs = s.inputs := rfl
@[simp] theorem State.setEntry_bus (s : State) (i : BitVec 5) (e : TlbEntry) : (s.setEntry i e).bus = s.bus := rfl
@[simp] theorem State.setEntry_draws (s : State) (i : BitVec 5) (e : TlbEntry) : (s.setEntry i e).draws = s.draws := rfl
@[simp] theorem State.setEntry_reg (s : State) (i : BitVec 5) (e : TlbEntry) (r : Reg) : (s.setEntry i e).reg r = s.reg r := rfl

@[simp] theorem State.setReg_pc (s : State) (r : Reg) (v : Word) : (s.setReg r v).pc = s.pc := by
  unfold State.setReg; split <;> rfl
@[simp] theorem State.setReg_psw (s : State) (r : Reg) (v : Word) : (s.setReg r v).psw = s.psw := by
  unfold State.setReg; split <;> rfl
@[simp] theorem State.setReg_tlbIndex (s : State) (r : Reg) (v : Word) : (s.setReg r v).tlbIndex = s.tlbIndex := by
  unfold State.setReg; split <;> rfl
@[simp] theorem State.setReg_tlbHigh (s : State) (r : Reg) (v : Word) : (s.setReg r v).tlbHigh = s.tlbHigh := by
  unfold State.setReg; split <;> rfl
@[simp] theorem State.setReg_tlbLow (s : State) (r : Reg) (v : Word) : (s.setReg r v).tlbLow = s.tlbLow := by
  unfold State.setReg; split <;> rfl
@[simp] theorem State.setReg_tlbBad (s : State) (r : Reg) (v : Word) : (s.setReg r v).tlbBad = s.tlbBad := by
  unfold State.setReg; split <;> rfl
@[simp] theorem State.setReg_tlb (s : State) (r : Reg) (v : Word) : (s.setReg r v).tlb = s.tlb := by
  unfold State.setReg; split <;> rfl
@[simp] theorem State.setReg_rng (s : State) (r : Reg) (v : Word) : (s.setReg r v).rng = s.rng := by
  unfold State.setReg; split <;> rfl
@[simp] theorem State.setReg_mem (s : State) (r : Reg) (v : Word) : (s.setReg r v).mem = s.mem := by
  unfold State.setReg; split <;> rfl
@[simp] theorem State.setReg_dev (s : State) (r : Reg) (v : Word) : (s.setReg r v).dev = s.dev := by
  unfold State.setReg; split <;> rfl
@[simp] theorem State.setReg_extIrq (s : State) (r : Reg) (v : Word) : (s.setReg r v).extIrq = s.extIrq := by
  unfold State.setReg; split <;> rfl
@[simp] theorem State.setReg_cfg (s : State) (r : Reg) (v : Word) : (s.setReg r v).cfg = s.cfg := by
  unfold State.setReg; split <;> rfl
@[simp] theorem State.setReg_inputs (s : State) (r : Reg) (v : Word) : (s.setReg r v).inputs = s.inputs := by
  unfold State.setReg; split <;> rfl
@[simp] theorem State.setReg_bus (s : State) (r : Reg) (v : Word) : (s.setReg r v).bus = s.bus := by
  unfold State.setReg; split <;> rfl
@[simp] theorem State.setReg_draws (s : State) (r : Reg) (v : Word) : (s.setReg r v).draws = s.draws := by
  unfold State.setReg; split <;> rfl
@[simp] theorem State.setReg_entry (s : State) (r : Reg) (v : Word) (i : BitVec 5) : (s.setReg r v).entry i = s.entry i := by
  unfold State.setReg; split <;> rfl
@[simp] theorem State.setReg_hits (s : State) (r : Reg) (v : Word) (p : Page) : (s.setReg r v).hits p = s.hits p := by
  unfold State.setReg; split <;> rfl

/-- x[0] reads 0 in every state (R21). -/
@[simp] theorem State.reg_zero (s : State) : s.reg 0#5 = 0#32 := rfl

/-- A write to x[0] has no effect (R21). -/
@[simp] theorem State.setReg_zero (s : State) (v : Word) : s.setReg 0#5 v = s := rfl

/-- A register other than x[0] reads its storage (R21). -/
theorem State.reg_of_ne (s : State) (r : Reg) (h : r ≠ 0#5) :
    s.reg r = s.regs[r.toNat - 1]'(by have := r.isLt; omega) := by
  simp [State.reg, h]

/-- The storage after a write to a register other than x[0] (R21). -/
theorem State.regs_setReg_of_ne (s : State) (r : Reg) (v : Word) (h : r ≠ 0#5) :
    (s.setReg r v).regs = s.regs.set (r.toNat - 1) v (by have := r.isLt; omega) := by
  simp [State.setReg, h]

/-- What a register reads after a register write (R21). -/
theorem State.reg_setReg (s : State) (r k : Reg) (v : Word) :
    (s.setReg r v).reg k = if k = r ∧ k ≠ 0#5 then v else s.reg k := by
  by_cases hr : r = 0#5
  · subst hr
    by_cases hk : k = 0#5 <;> simp [hk]
  by_cases hk : k = 0#5
  · simp [hk]
  have hr' : r.toNat ≠ 0 := fun h => hr (BitVec.eq_of_toNat_eq h)
  have hk' : k.toNat ≠ 0 := fun h => hk (BitVec.eq_of_toNat_eq h)
  rw [State.reg_of_ne _ k hk, State.reg_of_ne _ k hk]
  simp only [State.regs_setReg_of_ne s r v hr, Vector.getElem_set]
  by_cases hkr : k = r
  · simp [hkr, hr]
  · have : r.toNat - 1 ≠ k.toNat - 1 := fun h => hkr (BitVec.eq_of_toNat_eq (by omega))
    simp [hkr, this]

/-- What a TLB entry reads after an entry is written (R36). -/
theorem State.entry_setEntry (s : State) (i j : BitVec 5) (e : TlbEntry) :
    (s.setEntry i e).entry j = if j = i then e else s.entry j := by
  by_cases h : j = i
  · subst h; simp [State.setEntry, State.entry]
  · have hne : i.toNat ≠ j.toNat := fun h' => h (BitVec.eq_of_toNat_eq h'.symm)
    simp [State.setEntry, State.entry, h, Vector.getElem_set_ne _ _ hne]

end Sys2Proof.Machine
end

