-- ==== Sys2Proof/Laws/Ops.lean ====
section
/-! SUPPORT. What taking an exception, returning from one and the special registers' operations change, field by field, so
that no proof unfolds them. -/

namespace Sys2Proof.Machine

/-! ## Acceptance (R290) -/

@[simp] theorem accept_tlbIndex (c : Cause) (ret : Word) (s : State) : (accept c ret s).tlbIndex = s.tlbIndex := by
  simp [accept]
@[simp] theorem accept_tlbHigh (c : Cause) (ret : Word) (s : State) : (accept c ret s).tlbHigh = s.tlbHigh := by
  simp [accept]
@[simp] theorem accept_tlbLow (c : Cause) (ret : Word) (s : State) : (accept c ret s).tlbLow = s.tlbLow := by
  simp [accept]
@[simp] theorem accept_tlbBad (c : Cause) (ret : Word) (s : State) : (accept c ret s).tlbBad = s.tlbBad := by
  simp [accept]
@[simp] theorem accept_tlb (c : Cause) (ret : Word) (s : State) : (accept c ret s).tlb = s.tlb := by
  simp [accept]
@[simp] theorem accept_rng (c : Cause) (ret : Word) (s : State) : (accept c ret s).rng = s.rng := by
  simp [accept]
@[simp] theorem accept_mem (c : Cause) (ret : Word) (s : State) : (accept c ret s).mem = s.mem := by
  simp [accept]
@[simp] theorem accept_dev (c : Cause) (ret : Word) (s : State) : (accept c ret s).dev = s.dev := by
  simp [accept]
@[simp] theorem accept_extIrq (c : Cause) (ret : Word) (s : State) : (accept c ret s).extIrq = s.extIrq := by
  simp [accept]
@[simp] theorem accept_cfg (c : Cause) (ret : Word) (s : State) : (accept c ret s).cfg = s.cfg := by
  simp [accept]
@[simp] theorem accept_inputs (c : Cause) (ret : Word) (s : State) : (accept c ret s).inputs = s.inputs := by
  simp [accept]
@[simp] theorem accept_bus (c : Cause) (ret : Word) (s : State) : (accept c ret s).bus = s.bus := by
  simp [accept]
@[simp] theorem accept_draws (c : Cause) (ret : Word) (s : State) : (accept c ret s).draws = s.draws := by
  simp [accept]
@[simp] theorem accept_entry (c : Cause) (ret : Word) (s : State) (i : BitVec 5) : (accept c ret s).entry i = s.entry i := by
  simp [State.entry]
@[simp] theorem accept_hits (c : Cause) (ret : Word) (s : State) (p : Page) : (accept c ret s).hits p = s.hits p := by
  simp [State.hits]
@[simp] theorem accept_pc (c : Cause) (ret : Word) (s : State) : (accept c ret s).pc = serviceAddress s.psw.v c := rfl
@[simp] theorem accept_psw (c : Cause) (ret : Word) (s : State) : (accept c ret s).psw = s.psw.accepted c := rfl
/-- Register 30 takes the return address; no other register changes (R290 step 1). -/
theorem accept_reg (c : Cause) (ret : Word) (s : State) (k : Reg) :
    (accept c ret s).reg k = if k = 30#5 then ret else s.reg k := by
  by_cases h : k = 30#5
  · subst h; simp [accept, State.reg_setReg]
  · simp [accept, State.reg_setReg, h]

/-! ## What a fault notes (R80) -/

@[simp] theorem noteAddress_regs (c : Cause) (s : State) : (noteAddress c s).regs = s.regs := by
  cases c <;> rfl
@[simp] theorem noteAddress_pc (c : Cause) (s : State) : (noteAddress c s).pc = s.pc := by
  cases c <;> rfl
@[simp] theorem noteAddress_psw (c : Cause) (s : State) : (noteAddress c s).psw = s.psw := by
  cases c <;> rfl
@[simp] theorem noteAddress_tlbIndex (c : Cause) (s : State) : (noteAddress c s).tlbIndex = s.tlbIndex := by
  cases c <;> rfl
@[simp] theorem noteAddress_tlbLow (c : Cause) (s : State) : (noteAddress c s).tlbLow = s.tlbLow := by
  cases c <;> rfl
@[simp] theorem noteAddress_tlb (c : Cause) (s : State) : (noteAddress c s).tlb = s.tlb := by
  cases c <;> rfl
@[simp] theorem noteAddress_rng (c : Cause) (s : State) : (noteAddress c s).rng = s.rng := by
  cases c <;> rfl
@[simp] theorem noteAddress_mem (c : Cause) (s : State) : (noteAddress c s).mem = s.mem := by
  cases c <;> rfl
@[simp] theorem noteAddress_dev (c : Cause) (s : State) : (noteAddress c s).dev = s.dev := by
  cases c <;> rfl
@[simp] theorem noteAddress_extIrq (c : Cause) (s : State) : (noteAddress c s).extIrq = s.extIrq := by
  cases c <;> rfl
@[simp] theorem noteAddress_cfg (c : Cause) (s : State) : (noteAddress c s).cfg = s.cfg := by
  cases c <;> rfl
@[simp] theorem noteAddress_inputs (c : Cause) (s : State) : (noteAddress c s).inputs = s.inputs := by
  cases c <;> rfl
@[simp] theorem noteAddress_bus (c : Cause) (s : State) : (noteAddress c s).bus = s.bus := by
  cases c <;> rfl
@[simp] theorem noteAddress_entry (c : Cause) (s : State) (i : BitVec 5) : (noteAddress c s).entry i = s.entry i := by
  simp [State.entry]
@[simp] theorem noteAddress_hits (c : Cause) (s : State) (p : Page) : (noteAddress c s).hits p = s.hits p := by
  simp [State.hits]
@[simp] theorem noteAddress_reg (c : Cause) (s : State) (k : Reg) : (noteAddress c s).reg k = s.reg k := by
  simp [State.reg]

/-! ## Raising a fault (R12) -/

@[simp] theorem raise_tlbIndex (c : Cause) (ret : Word) (s : State) : (raise c ret s).tlbIndex = s.tlbIndex := by
  simp [raise]
@[simp] theorem raise_tlbLow (c : Cause) (ret : Word) (s : State) : (raise c ret s).tlbLow = s.tlbLow := by
  simp [raise]
@[simp] theorem raise_tlb (c : Cause) (ret : Word) (s : State) : (raise c ret s).tlb = s.tlb := by
  simp [raise]
@[simp] theorem raise_rng (c : Cause) (ret : Word) (s : State) : (raise c ret s).rng = s.rng := by
  simp [raise]
@[simp] theorem raise_mem (c : Cause) (ret : Word) (s : State) : (raise c ret s).mem = s.mem := by
  simp [raise]
@[simp] theorem raise_dev (c : Cause) (ret : Word) (s : State) : (raise c ret s).dev = s.dev := by
  simp [raise]
@[simp] theorem raise_extIrq (c : Cause) (ret : Word) (s : State) : (raise c ret s).extIrq = s.extIrq := by
  simp [raise]
@[simp] theorem raise_cfg (c : Cause) (ret : Word) (s : State) : (raise c ret s).cfg = s.cfg := by
  simp [raise]
@[simp] theorem raise_inputs (c : Cause) (ret : Word) (s : State) : (raise c ret s).inputs = s.inputs := by
  simp [raise]
@[simp] theorem raise_bus (c : Cause) (ret : Word) (s : State) : (raise c ret s).bus = s.bus := by
  simp [raise]
@[simp] theorem raise_entry (c : Cause) (ret : Word) (s : State) (i : BitVec 5) : (raise c ret s).entry i = s.entry i := by
  simp [State.entry]
@[simp] theorem raise_hits (c : Cause) (ret : Word) (s : State) (p : Page) : (raise c ret s).hits p = s.hits p := by
  simp [State.hits]
@[simp] theorem raise_pc (c : Cause) (ret : Word) (s : State) : (raise c ret s).pc = serviceAddress s.psw.v c := by
  simp [raise]
@[simp] theorem raise_psw (c : Cause) (ret : Word) (s : State) : (raise c ret s).psw = s.psw.accepted c := by
  simp [raise]
@[simp] theorem raise_tlbHigh (c : Cause) (ret : Word) (s : State) :
    (raise c ret s).tlbHigh = (noteAddress c s).tlbHigh := by
  simp [raise]
@[simp] theorem raise_tlbBad (c : Cause) (ret : Word) (s : State) :
    (raise c ret s).tlbBad = (noteAddress c s).tlbBad := by
  simp [raise]
@[simp] theorem raise_draws (c : Cause) (ret : Word) (s : State) : (raise c ret s).draws = (noteAddress c s).draws := by
  simp [raise]
theorem raise_reg (c : Cause) (ret : Word) (s : State) (k : Reg) :
    (raise c ret s).reg k = if k = 30#5 then ret else s.reg k := by
  simp [raise, accept_reg]

/-! ## Return from an exception (R252) -/

@[simp] theorem returnFromException_regs (s : State) : (returnFromException s).regs = s.regs := by
  rfl
@[simp] theorem returnFromException_tlbIndex (s : State) : (returnFromException s).tlbIndex = s.tlbIndex := by
  rfl
@[simp] theorem returnFromException_tlbHigh (s : State) : (returnFromException s).tlbHigh = s.tlbHigh := by
  rfl
@[simp] theorem returnFromException_tlbLow (s : State) : (returnFromException s).tlbLow = s.tlbLow := by
  rfl
@[simp] theorem returnFromException_tlbBad (s : State) : (returnFromException s).tlbBad = s.tlbBad := by
  rfl
@[simp] theorem returnFromException_tlb (s : State) : (returnFromException s).tlb = s.tlb := by
  rfl
@[simp] theorem returnFromException_rng (s : State) : (returnFromException s).rng = s.rng := by
  rfl
@[simp] theorem returnFromException_mem (s : State) : (returnFromException s).mem = s.mem := by
  rfl
@[simp] theorem returnFromException_dev (s : State) : (returnFromException s).dev = s.dev := by
  rfl
@[simp] theorem returnFromException_extIrq (s : State) : (returnFromException s).extIrq = s.extIrq := by
  rfl
@[simp] theorem returnFromException_cfg (s : State) : (returnFromException s).cfg = s.cfg := by
  rfl
@[simp] theorem returnFromException_inputs (s : State) : (returnFromException s).inputs = s.inputs := by
  rfl
@[simp] theorem returnFromException_bus (s : State) : (returnFromException s).bus = s.bus := by
  rfl
@[simp] theorem returnFromException_draws (s : State) : (returnFromException s).draws = s.draws := by
  rfl
@[simp] theorem returnFromException_entry (s : State) (i : BitVec 5) : (returnFromException s).entry i = s.entry i := by
  simp [State.entry]
@[simp] theorem returnFromException_hits (s : State) (p : Page) : (returnFromException s).hits p = s.hits p := by
  simp [State.hits]
@[simp] theorem returnFromException_reg (s : State) (k : Reg) : (returnFromException s).reg k = s.reg k := by
  simp [State.reg]
@[simp] theorem returnFromException_pc (s : State) : (returnFromException s).pc = s.reg 30 := rfl
@[simp] theorem returnFromException_psw (s : State) : (returnFromException s).psw = s.psw.popped := rfl

/-! ## The TLB and its registers (R255, R259) -/

@[simp] theorem State.regsFromEntry_regs (s : State) (e : TlbEntry) : (s.regsFromEntry e).regs = s.regs := by
  rfl
@[simp] theorem State.regsFromEntry_pc (s : State) (e : TlbEntry) : (s.regsFromEntry e).pc = s.pc := by
  rfl
@[simp] theorem State.regsFromEntry_psw (s : State) (e : TlbEntry) : (s.regsFromEntry e).psw = s.psw := by
  rfl
@[simp] theorem State.regsFromEntry_tlbIndex (s : State) (e : TlbEntry) : (s.regsFromEntry e).tlbIndex = s.tlbIndex := by
  rfl
@[simp] theorem State.regsFromEntry_tlbBad (s : State) (e : TlbEntry) : (s.regsFromEntry e).tlbBad = s.tlbBad := by
  rfl
@[simp] theorem State.regsFromEntry_tlb (s : State) (e : TlbEntry) : (s.regsFromEntry e).tlb = s.tlb := by
  rfl
@[simp] theorem State.regsFromEntry_rng (s : State) (e : TlbEntry) : (s.regsFromEntry e).rng = s.rng := by
  rfl
@[simp] theorem State.regsFromEntry_mem (s : State) (e : TlbEntry) : (s.regsFromEntry e).mem = s.mem := by
  rfl
@[simp] theorem State.regsFromEntry_dev (s : State) (e : TlbEntry) : (s.regsFromEntry e).dev = s.dev := by
  rfl
@[simp] theorem State.regsFromEntry_extIrq (s : State) (e : TlbEntry) : (s.regsFromEntry e).extIrq = s.extIrq := by
  rfl
@[simp] theorem State.regsFromEntry_cfg (s : State) (e : TlbEntry) : (s.regsFromEntry e).cfg = s.cfg := by
  rfl
@[simp] theorem State.regsFromEntry_inputs (s : State) (e : TlbEntry) : (s.regsFromEntry e).inputs = s.inputs := by
  rfl
@[simp] theorem State.regsFromEntry_bus (s : State) (e : TlbEntry) : (s.regsFromEntry e).bus = s.bus := by
  rfl
@[simp] theorem State.regsFromEntry_entry (s : State) (e : TlbEntry) (i : BitVec 5) : (s.regsFromEntry e).entry i = s.entry i := by
  simp [State.entry]
@[simp] theorem State.regsFromEntry_hits (s : State) (e : TlbEntry) (p : Page) : (s.regsFromEntry e).hits p = s.hits p := by
  simp [State.hits]
@[simp] theorem State.regsFromEntry_reg (s : State) (e : TlbEntry) (k : Reg) : (s.regsFromEntry e).reg k = s.reg k := by
  simp [State.reg]
@[simp] theorem State.regsFromEntry_page (s : State) (e : TlbEntry) : (s.regsFromEntry e).tlbHigh.page = e.page := rfl
@[simp] theorem State.regsFromEntry_frame (s : State) (e : TlbEntry) : (s.regsFromEntry e).tlbLow.frame = e.frame := rfl
@[simp] theorem State.regsFromEntry_write (s : State) (e : TlbEntry) : (s.regsFromEntry e).tlbLow.write = e.write := rfl
@[simp] theorem State.regsFromEntry_valid (s : State) (e : TlbEntry) : (s.regsFromEntry e).tlbLow.valid = e.valid := rfl

/-! ## TBS (R255) -/

@[simp] theorem searchTlb_regs (s : State) : (searchTlb s).regs = s.regs := by
  unfold searchTlb; split <;> rfl
@[simp] theorem searchTlb_pc (s : State) : (searchTlb s).pc = s.pc := by
  unfold searchTlb; split <;> rfl
@[simp] theorem searchTlb_psw (s : State) : (searchTlb s).psw = s.psw := by
  unfold searchTlb; split <;> rfl
@[simp] theorem searchTlb_tlbHigh (s : State) : (searchTlb s).tlbHigh = s.tlbHigh := by
  unfold searchTlb; split <;> rfl
@[simp] theorem searchTlb_tlbLow (s : State) : (searchTlb s).tlbLow = s.tlbLow := by
  unfold searchTlb; split <;> rfl
@[simp] theorem searchTlb_tlbBad (s : State) : (searchTlb s).tlbBad = s.tlbBad := by
  unfold searchTlb; split <;> rfl
@[simp] theorem searchTlb_tlb (s : State) : (searchTlb s).tlb = s.tlb := by
  unfold searchTlb; split <;> rfl
@[simp] theorem searchTlb_rng (s : State) : (searchTlb s).rng = s.rng := by
  unfold searchTlb; split <;> rfl
@[simp] theorem searchTlb_mem (s : State) : (searchTlb s).mem = s.mem := by
  unfold searchTlb; split <;> rfl
@[simp] theorem searchTlb_dev (s : State) : (searchTlb s).dev = s.dev := by
  unfold searchTlb; split <;> rfl
@[simp] theorem searchTlb_extIrq (s : State) : (searchTlb s).extIrq = s.extIrq := by
  unfold searchTlb; split <;> rfl
@[simp] theorem searchTlb_cfg (s : State) : (searchTlb s).cfg = s.cfg := by
  unfold searchTlb; split <;> rfl
@[simp] theorem searchTlb_inputs (s : State) : (searchTlb s).inputs = s.inputs := by
  unfold searchTlb; split <;> rfl
@[simp] theorem searchTlb_bus (s : State) : (searchTlb s).bus = s.bus := by
  unfold searchTlb; split <;> rfl
@[simp] theorem searchTlb_entry (s : State) (i : BitVec 5) : (searchTlb s).entry i = s.entry i := by
  simp [State.entry]
@[simp] theorem searchTlb_hits (s : State) (p : Page) : (searchTlb s).hits p = s.hits p := by
  simp [State.hits]
@[simp] theorem searchTlb_reg (s : State) (k : Reg) : (searchTlb s).reg k = s.reg k := by
  simp [State.reg]

/-! ## The special registers by number (R27, R254) -/

/-- S[z] exists exactly for z in 0..4 (R27). -/
theorem State.special_isSome (s : State) (z : Half) : (s.special z).isSome = validSpecial z := by
  unfold State.special validSpecial
  split <;> simp_all
  all_goals omega

/-- A write of S[z] is possible exactly for z in 0..4 (R254). -/
theorem State.setSpecial_isSome (s : State) (z : Half) (v : Word) : (s.setSpecial z v).isSome = validSpecial z := by
  unfold State.setSpecial validSpecial
  split <;> simp_all
  all_goals omega

/-- All that a write of a special register can do: it writes that one register, and but for S[4] moves the counter of
free values. -/
theorem State.setSpecial_cases {s t : State} {z : Half} {v : Word} (h : s.setSpecial z v = some t) :
    (z.toNat = 0 ∧ ∃ g, t = (s.setPsw (Psw.ofWord v g)).drawn 1) ∨
    (z.toNat = 1 ∧ ∃ g, t = (s.setIndex (TlbIndex.ofWord v g)).drawn 1) ∨
    (z.toNat = 2 ∧ ∃ g, t = (s.setHigh (TlbHigh.ofWord v g)).drawn 1) ∨
    (z.toNat = 3 ∧ ∃ g, t = (s.setLow (TlbLow.ofWord v g)).drawn 1) ∨
    (z.toNat = 4 ∧ t = s.setBad v) := by
  unfold State.setSpecial at h
  split at h <;> rename_i hz
  · exact .inl ⟨hz, _, (Option.some.inj h).symm⟩
  · exact .inr (.inl ⟨hz, _, (Option.some.inj h).symm⟩)
  · exact .inr (.inr (.inl ⟨hz, _, (Option.some.inj h).symm⟩))
  · exact .inr (.inr (.inr (.inl ⟨hz, _, (Option.some.inj h).symm⟩)))
  · exact .inr (.inr (.inr (.inr ⟨hz, (Option.some.inj h).symm⟩)))
  · cases h

/-! ## The privilege test (R250) -/

/-- In Kernel Mode a privileged instruction does what its own text says. -/
theorem privileged_kernel {s : State} (body : State → Result) (h : s.psw.uc = false) : privileged body s = body s := by
  simp [privileged, h]

/-- In User Mode it takes the Privileged Instruction Fault. -/
theorem privileged_user {s : State} (body : State → Result) (h : s.psw.uc = true) :
    privileged body s = .next (raise .privilegedInstruction (s.pc - 4) s) := by
  simp [privileged, h, raiseFault]

end Sys2Proof.Machine
end

