-- ==== Sys2Proof/Laws/Access.lean ====
section
/-! SUPPORT. Everything an access to memory can do: the checks before the bus in the spec's words, the bus cycle, and what
each leaves alone. -/

namespace Sys2Proof.Machine

/-! ## What an access leaves alone -/

/-- The parts of the state that no access, and no event of a device, touches. -/
structure SameCore (s t : State) : Prop where
  regs : t.regs = s.regs
  pc : t.pc = s.pc
  psw : t.psw = s.psw
  tlbIndex : t.tlbIndex = s.tlbIndex
  tlbHigh : t.tlbHigh = s.tlbHigh
  tlbLow : t.tlbLow = s.tlbLow
  tlbBad : t.tlbBad = s.tlbBad
  tlb : t.tlb = s.tlb
  rng : t.rng = s.rng
  cfg : t.cfg = s.cfg
  inputs : t.inputs = s.inputs

theorem SameCore.refl (s : State) : SameCore s s := ⟨rfl, rfl, rfl, rfl, rfl, rfl, rfl, rfl, rfl, rfl, rfl⟩

theorem SameCore.trans {s t u : State} (h : SameCore s t) (k : SameCore t u) : SameCore s u :=
  ⟨k.regs.trans h.regs, k.pc.trans h.pc, k.psw.trans h.psw, k.tlbIndex.trans h.tlbIndex, k.tlbHigh.trans h.tlbHigh,
    k.tlbLow.trans h.tlbLow, k.tlbBad.trans h.tlbBad, k.tlb.trans h.tlb, k.rng.trans h.rng, k.cfg.trans h.cfg,
    k.inputs.trans h.inputs⟩

theorem SameCore.drawn (s : State) (k : Nat) : SameCore s (s.drawn k) := ⟨rfl, rfl, rfl, rfl, rfl, rfl, rfl, rfl, rfl, rfl, rfl⟩

theorem SameCore.reg {s t : State} (h : SameCore s t) (k : Reg) : t.reg k = s.reg k := by
  simp [State.reg, h.regs]

theorem SameCore.entry {s t : State} (h : SameCore s t) (i : BitVec 5) : t.entry i = s.entry i := by
  simp [State.entry, h.tlb]

theorem SameCore.sameRegs {s t : State} (h : SameCore s t) : SameRegs s t := h.reg

theorem SameCore.sameMmuRegs {s t : State} (h : SameCore s t) : SameMmuRegs s t :=
  ⟨h.tlbIndex, h.tlbHigh, h.tlbLow, h.tlbBad⟩

theorem SameCore.sameTlb {s t : State} (h : SameCore s t) : SameTlb s t := ⟨h.entry, h.rng⟩

/-! ## The checks in the spec's words -/

/-- R70. -/
theorem misaligned_iff (va : Word) (w : Width) : misaligned va w = true ↔ ¬ Aligned va w := by
  have h0 : va.getLsbD 0 = decide (va.toNat % 2 = 1) := by simp [BitVec.getLsbD, Nat.testBit_zero]
  have h1 : va.getLsbD 1 = decide (va.toNat / 2 % 2 = 1) := by
    rw [BitVec.getLsbD, Nat.testBit_eq_decide_div_mod_eq]
  cases w <;> simp only [misaligned, Aligned, h0, h1, Bool.or_eq_true, decide_eq_true_eq]
  · simp
  · omega
  · omega

/-- Bit 31 of an address and its value (R63). -/
theorem bit31_iff (va : Word) : va.getLsbD 31 = true ↔ 0x80000000 ≤ va.toNat := by
  have := va.isLt
  rw [BitVec.getLsbD, Nat.testBit_eq_decide_div_mod_eq]
  simp only [decide_eq_true_eq]
  omega

/-- R63, R82. -/
theorem forbidden_iff (va : Word) (s : State) : forbidden va s = true ↔ ¬ Permitted s va := by
  have := bit31_iff va
  simp only [forbidden, Permitted, Bool.and_eq_true, this]
  constructor
  · rintro ⟨h, hu⟩ hp
    exact absurd (hp hu) (by omega)
  · intro h
    by_cases hu : s.psw.uc = true
    · exact ⟨by_contra fun hv => h fun _ => by omega, hu⟩
    · exact absurd (fun hu' => absurd hu' hu) h

/-- R75. -/
theorem directMapped_iff (va : Word) : directMapped va = true ↔ 0xC0000000 ≤ va.toNat := by
  have := va.isLt
  simp only [directMapped, Bool.and_eq_true, bit31_iff]
  rw [BitVec.getLsbD, Nat.testBit_eq_decide_div_mod_eq]
  simp only [decide_eq_true_eq]
  omega

/-- R75: dropping the two upper bits subtracts 0xC0000000. -/
theorem directMapped_address (va : Word) (h : 0xC0000000 ≤ va.toNat) : (0#2 ++ va.extractLsb' 0 30 : Word) = va - 0xC0000000#32 := by
  have := va.isLt
  apply BitVec.eq_of_toNat_eq
  rw [BitVec.toNat_append, BitVec.toNat_sub]
  simp only [BitVec.extractLsb'_toNat, BitVec.toNat_ofNat, Nat.zero_mod, Nat.zero_shiftLeft, Nat.zero_or, Nat.shiftRight_zero]
  omega

theorem mem_tlbIndices (i : BitVec 5) : i ∈ tlbIndices := by
  simp only [tlbIndices, List.mem_map, List.mem_range]
  exact ⟨i.toNat, i.isLt, by simp⟩

theorem tlbIndices_nodup : tlbIndices.Nodup := by decide

/-- The entries that hit are those that hold the page number (R77). -/
theorem State.mem_hits (s : State) (page : Page) (i : BitVec 5) : i ∈ s.hits page ↔ (s.entry i).page = page := by
  simp [State.hits, mem_tlbIndices]

theorem State.hits_nodup (s : State) (page : Page) : (s.hits page).Nodup := tlbIndices_nodup.filter _

/-- R79. -/
theorem State.hits_eq_nil_iff (s : State) (page : Page) : s.hits page = [] ↔ NoEntry s page := by
  simp only [List.eq_nil_iff_forall_not_mem, State.mem_hits, NoEntry, ne_eq]

/-- R77. -/
theorem State.hits_eq_singleton_iff (s : State) (page : Page) (i : BitVec 5) :
    s.hits page = [i] ↔ OnlyEntry s page i := by
  constructor
  · intro h
    refine ⟨(s.mem_hits page i).1 (h ▸ List.mem_singleton_self i), fun j hj => ?_⟩
    have := (s.mem_hits page j).2 hj
    rw [h] at this
    exact List.mem_singleton.1 this
  · rintro ⟨hi, hu⟩
    have hmem := (s.mem_hits page i).2 hi
    have hnd := s.hits_nodup page
    have hall : ∀ j ∈ s.hits page, j = i := fun j hj => hu j ((s.mem_hits page j).1 hj)
    match hh : s.hits page with
    | [] => rw [hh] at hmem; cases hmem
    | [j] => rw [hh] at hall; rw [hall j (List.mem_singleton_self j)]
    | j :: k :: rest =>
      rw [hh] at hall hnd
      have hj := hall j List.mem_cons_self
      have hk := hall k (List.mem_cons_of_mem _ List.mem_cons_self)
      subst hj; subst hk
      simp at hnd

/-- R81: two entries with the page hit together. -/
theorem State.hits_of_two (s : State) (page : Page) {i j : BitVec 5} (hij : i ≠ j) (hi : (s.entry i).page = page)
    (hj : (s.entry j).page = page) : ∃ a b rest, s.hits page = a :: b :: rest := by
  have hi' := (s.mem_hits page i).2 hi
  have hj' := (s.mem_hits page j).2 hj
  match hh : s.hits page with
  | [] => rw [hh] at hi'; cases hi'
  | [k] =>
    rw [hh] at hi' hj'
    exact absurd ((List.mem_singleton.1 hi').trans (List.mem_singleton.1 hj').symm) hij
  | a :: b :: rest => exact ⟨a, b, rest, rfl⟩

/-! ## Translation -/

/-- A lookup changes the counter of free values at most, and that only for a duplicated page. -/
theorem lookup_state (page : Page) (s : State) : (lookup page s).2 = s ∨ (lookup page s).2 = s.drawn 1 := by
  unfold lookup
  split
  · exact .inl rfl
  · exact .inl rfl
  · exact .inr rfl

theorem lookup_none {page : Page} {s : State} (h : NoEntry s page) : lookup page s = (none, s) := by
  simp [lookup, (s.hits_eq_nil_iff page).2 h]

theorem lookup_only {page : Page} {s : State} {i : BitVec 5} (h : OnlyEntry s page i) :
    lookup page s = (some (s.entry i), s) := by
  simp [lookup, (s.hits_eq_singleton_iff page i).2 h]

/-- All that the checks on an entry can answer (R78). -/
theorem useEntry_cases (va : Word) (isWrite : Bool) (e : Option TlbEntry) (s : State) :
    (∃ k, e = some k ∧ k.valid = true ∧ (isWrite = true → k.write = true) ∧
      useEntry va isWrite e s = .done (k.frame ++ va.extractLsb' 0 12) s) ∨
    (∃ c, (c = .tlbMiss va ∨ c = .tlbInvalid va ∨ (isWrite = true ∧ c = .tlbWrite va)) ∧
      useEntry va isWrite e s = .fault c s) := by
  cases e with
  | none => exact .inr ⟨_, .inl rfl, rfl⟩
  | some k =>
    by_cases hv : k.valid = true
    · by_cases hw : isWrite = true ∧ k.write = false
      · exact .inr ⟨_, .inr (.inr ⟨hw.1, rfl⟩), by simp [useEntry, hv, hw.1, hw.2]⟩
      · refine .inl ⟨k, rfl, hv, fun h => by simpa [h] using hw, ?_⟩
        have : (isWrite && !k.write) = false := by
          cases isWrite <;> cases hk : k.write <;> simp_all
        simp [useEntry, hv, this]
    · exact .inr ⟨_, .inr (.inl rfl), by simp [useEntry, hv]⟩

/-- Frame and page offset as a number (R76). -/
theorem frame_append_toNat (frame : Page) (va : Word) :
    (frame ++ va.extractLsb' 0 12 : Word).toNat = frame.toNat * 4096 + va.toNat % 4096 := by
  rw [BitVec.toNat_append]
  simp only [BitVec.extractLsb'_toNat, Nat.shiftRight_zero]
  rw [← Nat.shiftLeft_add_eq_or_of_lt (Nat.mod_lt _ (by decide)), Nat.shiftLeft_eq]

/-- A translation that answers keeps the page offset, and changes the counter of free values at most. -/
theorem translate_done {va pa : Word} {isWrite : Bool} {s t : State} (h : translate va isWrite s = .done pa t) :
    (t = s ∨ t = s.drawn 1) ∧ pa.toNat % 4096 = va.toNat % 4096 := by
  unfold translate at h
  split at h
  · rename_i hd
    cases h
    have hva := (directMapped_iff va).1 hd
    rw [directMapped_address va hva]
    have := va.isLt
    refine ⟨.inl rfl, ?_⟩
    rw [BitVec.toNat_sub]
    simp only [BitVec.toNat_ofNat]
    omega
  · obtain ⟨k, -, -, -, he⟩ | ⟨c, -, he⟩ := useEntry_cases va isWrite (lookup (pageOf va) s).1 (lookup (pageOf va) s).2
    · rw [he] at h
      cases h
      refine ⟨lookup_state _ _, ?_⟩
      rw [frame_append_toNat]
      omega
    · rw [he] at h; cases h

/-- A translation that fails raises one of the three TLB faults, and changes the counter of free values at most. -/
theorem translate_fault {va : Word} {isWrite : Bool} {s t : State} {c : Cause} (h : translate va isWrite s = .fault c t) :
    (t = s ∨ t = s.drawn 1) ∧ (c = .tlbMiss va ∨ c = .tlbInvalid va ∨ (isWrite = true ∧ c = .tlbWrite va)) := by
  unfold translate at h
  split at h
  · cases h
  · obtain ⟨k, -, -, -, he⟩ | ⟨c', hc, he⟩ := useEntry_cases va isWrite (lookup (pageOf va) s).1 (lookup (pageOf va) s).2
    · rw [he] at h; cases h
    · rw [he] at h; cases h; exact ⟨lookup_state _ _, hc⟩

/-- An address that the spec maps is translated so (R75, R76, R78). -/
theorem translate_of_mapsTo {s : State} {va pa : Word} {isWrite : Bool} (h : MapsTo s va isWrite pa) :
    translate va isWrite s = .done pa s := by
  obtain ⟨hva, rfl⟩ | ⟨hva, i, hi, hv, hw, rfl⟩ := h
  · rw [← directMapped_address va hva]
    simp [translate, (directMapped_iff va).2 hva]
  · have hd : directMapped va = false := by
      cases hx : directMapped va
      · rfl
      · exact absurd ((directMapped_iff va).1 hx) (by omega)
    have hww : (isWrite && !(s.entry i).write) = false := by
      cases isWrite <;> simp_all
    simp [translate, hd, lookup_only hi, useEntry, hv, hww]

/-! ## The checks before the bus (R86) -/

/-- An access that the spec lets through goes to the bus with the address the spec gives, and nothing has changed. -/
theorem checkAccess_of_goesTo {s : State} {va pa : Word} {w : Width} {isWrite : Bool} (h : GoesTo s va w isWrite pa) :
    checkAccess va w isWrite s = .done pa s := by
  obtain ⟨ha, hp, hm⟩ := h
  have h1 : misaligned va w = false := by
    cases hx : misaligned va w
    · rfl
    · exact absurd ha ((misaligned_iff va w).1 hx)
  have h2 : forbidden va s = false := by
    cases hx : forbidden va s
    · rfl
    · exact absurd hp ((forbidden_iff va s).1 hx)
  simp [checkAccess, h1, h2, translate_of_mapsTo hm]

/-- An access whose first failing check the spec names takes that fault, and nothing has changed. -/
theorem checkAccess_of_failsWith {s : State} {va : Word} {w : Width} {isWrite : Bool} {c : Cause}
    (h : FailsWith s va w isWrite c) : checkAccess va w isWrite s = .fault c s := by
  have al : Aligned va w → misaligned va w = false := fun ha => by
    cases hx : misaligned va w
    · rfl
    · exact absurd ha ((misaligned_iff va w).1 hx)
  have pe : Permitted s va → forbidden va s = false := fun hp => by
    cases hx : forbidden va s
    · rfl
    · exact absurd hp ((forbidden_iff va s).1 hx)
  have di : va.toNat < 0xC0000000 → directMapped va = false := fun hv => by
    cases hx : directMapped va
    · rfl
    · exact absurd ((directMapped_iff va).1 hx) (by omega)
  obtain ⟨ha, rfl⟩ | ⟨ha, hp, rfl⟩ | ⟨ha, hp, hv, hn, rfl⟩ | ⟨ha, hp, hv, i, hi, ⟨hx, rfl⟩ | ⟨hx, hw, hy, rfl⟩⟩ := h
  · simp [checkAccess, (misaligned_iff va w).2 ha]
  · simp [checkAccess, al ha, (forbidden_iff va s).2 hp]
  · simp [checkAccess, al ha, pe hp, translate, di hv, lookup_none hn, useEntry]
  · simp [checkAccess, al ha, pe hp, translate, di hv, lookup_only hi, useEntry, hx]
  · simp [checkAccess, al ha, pe hp, translate, di hv, lookup_only hi, useEntry, hx, hw, hy]

/-- An access that passes its checks: aligned, not forbidden, its page offset kept, and at most the counter of free values
changed. -/
theorem checkAccess_done {va pa : Word} {w : Width} {isWrite : Bool} {s t : State}
    (h : checkAccess va w isWrite s = .done pa t) :
    Aligned va w ∧ Permitted s va ∧ (t = s ∨ t = s.drawn 1) ∧ pa.toNat % 4096 = va.toNat % 4096 := by
  unfold checkAccess at h
  split at h
  · cases h
  · rename_i ha
    split at h
    · cases h
    · rename_i hp
      exact ⟨not_not.1 fun k => ha ((misaligned_iff va w).2 k), not_not.1 fun k => hp ((forbidden_iff va s).2 k),
        translate_done h⟩

/-- An access that fails a check: the cause carries its address, and at most the counter of free values has changed. -/
theorem checkAccess_fault {va : Word} {w : Width} {isWrite : Bool} {s t : State} {c : Cause}
    (h : checkAccess va w isWrite s = .fault c t) :
    (t = s ∨ t = s.drawn 1) ∧ (c = .illegalAddress va ∨ c = .privilegedAddress va ∨ c = .tlbMiss va ∨
      c = .tlbInvalid va ∨ (isWrite = true ∧ c = .tlbWrite va)) := by
  unfold checkAccess at h
  split at h
  · cases h; exact ⟨.inl rfl, .inl rfl⟩
  · split at h
    · cases h; exact ⟨.inl rfl, .inr (.inl rfl)⟩
    · obtain ⟨ht, hc⟩ := translate_fault h
      exact ⟨ht, .inr (.inr hc)⟩

/-- An aligned access keeps its alignment through translation. -/
theorem Aligned.of_offset {va pa : Word} {w : Width} (h : Aligned va w) (ho : pa.toNat % 4096 = va.toNat % 4096) :
    Aligned pa w := by
  cases w with
  | byte => trivial
  | half => simp only [Aligned] at *; omega
  | word => simp only [Aligned] at *; omega

/-! ## Address decoding (R62, R94) -/

theorem select_of_inRam {cfg : Config} {pa : Word} (h : inRam cfg pa.toNat = true) : select cfg pa = .ram := by
  simp only [inRam, Bool.and_eq_true, decide_eq_true_eq] at h
  simp [select, h.1, h.2]

theorem select_of_inRom {cfg : Config} {pa : Word} (h : inRom cfg pa.toNat = true) : select cfg pa = .rom := by
  simp only [inRom, Bool.and_eq_true, decide_eq_true_eq] at h
  have h1 : ¬ pa.toNat < 0x20000000 := by omega
  simp only [select, if_neg h1, if_pos h.1.2, if_pos h.2]

theorem inRam_of_select {cfg : Config} {pa : Word} (h : select cfg pa = .ram) : inRam cfg pa.toNat = true := by
  simp only [select] at h
  simp only [inRam, Bool.and_eq_true, decide_eq_true_eq]
  repeat' split at h
  all_goals first | (cases h; exact ⟨by assumption, by assumption⟩) | cases h

theorem inRom_of_select {cfg : Config} {pa : Word} (h : select cfg pa = .rom) : inRom cfg pa.toNat = true := by
  simp only [select] at h
  simp only [inRom, Bool.and_eq_true, decide_eq_true_eq]
  repeat' split at h
  all_goals first | (cases h; exact ⟨⟨by omega, by assumption⟩, by assumption⟩) | cases h

theorem deviceReg_of_select {cfg : Config} {pa : Word} {r : DevReg} (h : select cfg pa = .device r) :
    deviceReg cfg pa = some r ∧ 0x30000000 ≤ pa.toNat ∧ pa.toNat < 0x40000000 := by
  simp only [select] at h
  repeat' split at h
  all_goals first | (cases h; exact ⟨by assumption, by omega, by assumption⟩) | cases h

/-! ## Bus cycles (R90 to R100) -/

/-- A read that is answered: one cycle; only a device can change. -/
theorem busRead_done {pa v : Word} {w : Width} {s t : State} (h : busRead pa w s = .done v t) :
    SameCore s t ∧ t.extIrq = s.extIrq ∧ t.mem = s.mem ∧ t.bus = s.bus ++ [readCycle pa w] ∧
      ((InMemory s pa ∧ v = Memory.read s.mem pa.toNat w ∧ t.dev = s.dev ∧ t.draws = s.draws) ∨
       ∃ r, select s.cfg pa = .device r ∧ t.draws = s.draws + drawBlock ∧
        ((w = .word ∧ v = (s.dev.read s.cfg r s.draws).1 ∧ t.dev = (s.dev.read s.cfg r s.draws).2) ∨
         (w ≠ .word ∧ t.dev = s.dev.upset r (s.draws + 1)))) := by
  unfold busRead at h
  simp only at h
  split at h
  · rename_i hs
    cases h
    exact ⟨⟨rfl, rfl, rfl, rfl, rfl, rfl, rfl, rfl, rfl, rfl, rfl⟩, rfl, rfl, rfl, .inl ⟨.inl (inRam_of_select hs), rfl, rfl, rfl⟩⟩
  · rename_i hs
    cases h
    exact ⟨⟨rfl, rfl, rfl, rfl, rfl, rfl, rfl, rfl, rfl, rfl, rfl⟩, rfl, rfl, rfl, .inl ⟨.inr (inRom_of_select hs), rfl, rfl, rfl⟩⟩
  · rename_i r hs
    split at h
    · cases h
      exact ⟨⟨rfl, rfl, rfl, rfl, rfl, rfl, rfl, rfl, rfl, rfl, rfl⟩, rfl, rfl, rfl, .inr ⟨r, hs, rfl, .inl ⟨by assumption, rfl, rfl⟩⟩⟩
    · cases h
      exact ⟨⟨rfl, rfl, rfl, rfl, rfl, rfl, rfl, rfl, rfl, rfl, rfl⟩, rfl, rfl, rfl, .inr ⟨r, hs, rfl, .inr ⟨by assumption, rfl⟩⟩⟩
  · cases h

/-- The word of a device that an address in the device's window selects (R94). -/
theorem select_of_hasDevice {cfg : Config} {kind : DeviceKind} {base : Nat} {pa : Word} {r : DevReg}
    (h : HasDevice cfg kind base) (h1 : 0x30000000 ≤ pa.toNat) (h2 : pa.toNat < 0x40000000) (hb : base ≤ pa.toNat)
    (hw : pa.toNat < base + 0x100000) (hr : kindReg kind cfg.devHoles ((pa.toNat - base) / 4) = some r) :
    select cfg pa = .device r := by
  have a : ¬ pa.toNat < 0x20000000 := by omega
  have b : ¬ pa.toNat < 0x30000000 := by omega
  simp only [select, if_neg a, if_neg b, if_pos h2, deviceReg_of_window (h pa hb hw), hr]

/-- A read that fails on the bus: the Bus Timeout, one cycle, nothing else. -/
theorem busRead_fault {pa : Word} {w : Width} {s t : State} {c : Cause} (h : busRead pa w s = .fault c t) :
    select s.cfg pa = .nothing ∧ c = .busTimeout ∧ t = s.addCycle { readCycle pa w with answered := false } := by
  unfold busRead at h
  simp only at h
  split at h
  · cases h
  · cases h
  · split at h <;> cases h
  · cases h; exact ⟨by assumption, rfl, rfl⟩

/-- A write that is answered: one cycle; RAM takes the bytes, ROM keeps its own, only a device can change besides. -/
theorem busWrite_done {pa v k : Word} {w : Width} {s t : State} (h : busWrite pa w v s = .done k t) :
    SameCore s t ∧ t.extIrq = s.extIrq ∧ t.bus = s.bus ++ [writeCycle pa w v] ∧
      ((inRam s.cfg pa.toNat = true ∧ t.mem = Memory.write s.mem pa.toNat w v ∧ t.dev = s.dev ∧ t.draws = s.draws) ∨
       (inRom s.cfg pa.toNat = true ∧ t.mem = s.mem ∧ t.dev = s.dev ∧ t.draws = s.draws) ∨
       ∃ r, select s.cfg pa = .device r ∧ t.mem = s.mem ∧ t.draws = s.draws + drawBlock ∧
        ((w = .word ∧ t.dev = s.dev.write r v s.draws) ∨ (w ≠ .word ∧ t.dev = s.dev.upset r (s.draws + 1)))) := by
  unfold busWrite at h
  simp only at h
  split at h
  · rename_i hs
    cases h
    exact ⟨⟨rfl, rfl, rfl, rfl, rfl, rfl, rfl, rfl, rfl, rfl, rfl⟩, rfl, rfl, .inl ⟨inRam_of_select hs, rfl, rfl, rfl⟩⟩
  · rename_i hs
    split at h
    · cases h
      exact ⟨⟨rfl, rfl, rfl, rfl, rfl, rfl, rfl, rfl, rfl, rfl, rfl⟩, rfl, rfl, .inr (.inl ⟨inRom_of_select hs, rfl, rfl, rfl⟩)⟩
    · cases h
  · rename_i r hs
    split at h
    · cases h
      exact ⟨⟨rfl, rfl, rfl, rfl, rfl, rfl, rfl, rfl, rfl, rfl, rfl⟩, rfl, rfl,
        .inr (.inr ⟨r, hs, rfl, rfl, .inl ⟨by assumption, rfl⟩⟩)⟩
    · cases h
      exact ⟨⟨rfl, rfl, rfl, rfl, rfl, rfl, rfl, rfl, rfl, rfl, rfl⟩, rfl, rfl,
        .inr (.inr ⟨r, hs, rfl, rfl, .inr ⟨by assumption, rfl⟩⟩)⟩
  · cases h

/-- A write that fails on the bus: the Bus Timeout, one cycle, nothing else. -/
theorem busWrite_fault {pa v : Word} {w : Width} {s t : State} {c : Cause} (h : busWrite pa w v s = .fault c t) :
    (select s.cfg pa = .nothing ∨ (select s.cfg pa = .rom ∧ s.cfg.romWrite = .unanswered)) ∧ c = .busTimeout ∧
      t = s.addCycle { writeCycle pa w v with answered := false } := by
  unfold busWrite at h
  simp only at h
  split at h
  · cases h
  · split at h
    · cases h
    · cases h; exact ⟨.inr ⟨by assumption, by assumption⟩, rfl, rfl⟩
  · split at h <;> cases h
  · cases h; exact ⟨.inl (by assumption), rfl, rfl⟩

/-- A read of RAM or ROM answers the bytes and adds its cycle to the record. -/
theorem busRead_of_inMemory {s : State} {pa : Word} (w : Width) (h : InMemory s pa) :
    busRead pa w s = .done (Memory.read s.mem pa.toNat w) (s.addCycle (readCycle pa w)) := by
  obtain h | h := h
  · simp [busRead, select_of_inRam h, readCycle]
  · simp [busRead, select_of_inRom h, readCycle]

/-- A write to RAM stores the bytes and adds its cycle to the record. -/
theorem busWrite_of_inRam {s : State} {pa : Word} (w : Width) (v : Word) (h : inRam s.cfg pa.toNat = true) :
    busWrite pa w v s = .done 0 ((s.addCycle (writeCycle pa w v)).setMem (Memory.write s.mem pa.toNat w v)) := by
  simp [busWrite, select_of_inRam h, writeCycle]

/-- A read that nothing answers. -/
theorem busRead_of_nothing {s : State} {pa : Word} (w : Width) (h : select s.cfg pa = .nothing) :
    busRead pa w s = .fault .busTimeout (s.addCycle { readCycle pa w with answered := false }) := by
  simp [busRead, h, readCycle]

/-- A write that nothing answers. -/
theorem busWrite_of_nothing {s : State} {pa : Word} (w : Width) (v : Word) (h : select s.cfg pa = .nothing) :
    busWrite pa w v s = .fault .busTimeout (s.addCycle { writeCycle pa w v with answered := false }) := by
  simp [busWrite, h, writeCycle]

/-- A device word of the platform is selected by its address (R94). -/
theorem select_of_deviceReg {cfg : Config} {pa : Word} {r : DevReg} (h0 : 0x30000000 ≤ pa.toNat)
    (h1 : pa.toNat < 0x40000000) (h : deviceReg cfg pa = some r) : select cfg pa = .device r := by
  have a : ¬ pa.toNat < 0x20000000 := by omega
  have b : ¬ pa.toNat < 0x30000000 := by omega
  simp only [select, if_neg a, if_neg b, if_pos h1, h]

/-- A word read of a device is the device's own read (R92). -/
theorem busRead_of_device {s : State} {pa : Word} {r : DevReg} (h : select s.cfg pa = .device r) :
    busRead pa .word s = .done (s.dev.read s.cfg r s.draws).1
      (((s.addCycle (readCycle pa .word)).setDev (s.dev.read s.cfg r s.draws).2).drawn drawBlock) := by
  simp [busRead, h, readCycle]

/-- A word write of a device is the device's own write (R93). -/
theorem busWrite_of_device {s : State} {pa : Word} {r : DevReg} (v : Word) (h : select s.cfg pa = .device r) :
    busWrite pa .word v s = .done 0
      (((s.addCycle (writeCycle pa .word v)).setDev (s.dev.write r v s.draws)).drawn drawBlock) := by
  simp [busWrite, h, writeCycle]

/-! ## Whole accesses (R84, R85) -/

/-- An access that the spec lets through is its bus cycle. -/
theorem memRead_of_goesTo {s : State} {va pa : Word} {w : Width} (h : GoesTo s va w false pa) :
    memRead va w s = busRead pa w s := by
  simp [memRead, checkAccess_of_goesTo h]

theorem memWrite_of_goesTo {s : State} {va pa : Word} {w : Width} (v : Word) (h : GoesTo s va w true pa) :
    memWrite va w v s = busWrite pa w v s := by
  simp [memWrite, checkAccess_of_goesTo h]

/-- All that a read which answers can change: the devices, the record of cycles and the counter of free values. -/
theorem memRead_done {va v : Word} {w : Width} {s t : State} (h : memRead va w s = .done v t) :
    SameCore s t ∧ t.extIrq = s.extIrq ∧ t.mem = s.mem ∧ (∃ c, t.bus = s.bus ++ [c]) ∧ (s.dev.wf = true → t.dev.wf = true) := by
  unfold memRead at h
  split at h
  · cases h
  · rename_i pa u hc
    obtain ⟨-, -, hu, -⟩ := checkAccess_done hc
    obtain ⟨hk, he, hm, hb, hd⟩ := busRead_done h
    have hsu : SameCore s u := by
      obtain rfl | rfl := hu
      · exact SameCore.refl _
      · exact SameCore.drawn _ _
    have hx : u.extIrq = s.extIrq ∧ u.mem = s.mem ∧ u.bus = s.bus ∧ u.dev = s.dev := by
      obtain rfl | rfl := hu <;> exact ⟨rfl, rfl, rfl, rfl⟩
    refine ⟨hsu.trans hk, he.trans hx.1, hm.trans hx.2.1, ⟨_, by rw [hb, hx.2.2.1]⟩, fun hwf => ?_⟩
    rw [← hx.2.2.2] at hwf
    obtain ⟨-, -, h', -⟩ | ⟨r, -, -, ⟨-, -, h'⟩ | ⟨-, h'⟩⟩ := hd
    · rwa [h']
    · rw [h']; exact Devices.wf_read _ _ _ hwf
    · rw [h']; exact Devices.wf_upset _ _ hwf

/-- All that an access which fails can change: the record of cycles, by one cycle at most, and the counter of free values. -/
theorem memRead_fault {va : Word} {w : Width} {s t : State} {c : Cause} (h : memRead va w s = .fault c t) :
    SameCore s t ∧ t.extIrq = s.extIrq ∧ t.mem = s.mem ∧ t.dev = s.dev ∧ (t.bus = s.bus ∨ ∃ k, t.bus = s.bus ++ [k]) := by
  unfold memRead at h
  split at h
  · rename_i hc
    cases h
    obtain ⟨rfl | rfl, -⟩ := checkAccess_fault hc
    · exact ⟨SameCore.refl _, rfl, rfl, rfl, .inl rfl⟩
    · exact ⟨SameCore.drawn _ _, rfl, rfl, rfl, .inl rfl⟩
  · rename_i pa u hc
    obtain ⟨-, -, hu, -⟩ := checkAccess_done hc
    obtain ⟨-, -, rfl⟩ := busRead_fault h
    obtain rfl | rfl := hu
    · exact ⟨⟨rfl, rfl, rfl, rfl, rfl, rfl, rfl, rfl, rfl, rfl, rfl⟩, rfl, rfl, rfl, .inr ⟨_, rfl⟩⟩
    · exact ⟨⟨rfl, rfl, rfl, rfl, rfl, rfl, rfl, rfl, rfl, rfl, rfl⟩, rfl, rfl, rfl, .inr ⟨_, rfl⟩⟩

/-- All that a write which answers can change: the bytes of RAM at its address, the devices, the record of cycles and the
counter of free values. -/
theorem memWrite_done {va v k : Word} {w : Width} {s t : State} (h : memWrite va w v s = .done k t) :
    SameCore s t ∧ t.extIrq = s.extIrq ∧ (∃ c, t.bus = s.bus ++ [c]) ∧ (s.dev.wf = true → t.dev.wf = true) ∧
      ∃ pa u, checkAccess va w true s = .done pa u ∧ Aligned pa w ∧
        (t.mem = s.mem ∨ (inRam s.cfg pa.toNat = true ∧ t.mem = Memory.write s.mem pa.toNat w v)) := by
  unfold memWrite at h
  split at h
  · cases h
  · rename_i pa u hc
    obtain ⟨ha, -, hu, ho⟩ := checkAccess_done hc
    obtain ⟨hk, he, hb, hd⟩ := busWrite_done h
    have hsu : SameCore s u := by
      obtain rfl | rfl := hu
      · exact SameCore.refl _
      · exact SameCore.drawn _ _
    have hx : u.extIrq = s.extIrq ∧ u.mem = s.mem ∧ u.bus = s.bus ∧ u.dev = s.dev := by
      obtain rfl | rfl := hu <;> exact ⟨rfl, rfl, rfl, rfl⟩
    refine ⟨hsu.trans hk, he.trans hx.1, ⟨_, by rw [hb, hx.2.2.1]⟩, fun hwf => ?_, pa, u, hc, ha.of_offset ho, ?_⟩
    · rw [← hx.2.2.2] at hwf
      obtain ⟨-, -, h', -⟩ | ⟨-, -, h', -⟩ | ⟨r, hr, -, -, ⟨-, h'⟩ | ⟨-, h'⟩⟩ := hd
      · rwa [h']
      · rwa [h']
      · rw [h']; exact Devices.wf_write (deviceReg_inside (deviceReg_of_select hr).1) _ _ hwf
      · rw [h']; exact Devices.wf_upset _ _ hwf
    · rw [← hx.2.1, ← hsu.cfg]
      obtain ⟨hr, h', -⟩ | ⟨-, h', -⟩ | ⟨r, -, h', -⟩ := hd
      · exact .inr ⟨hr, h'⟩
      · exact .inl h'
      · exact .inl h'

/-- All that a write which fails can change. -/
theorem memWrite_fault {va v : Word} {w : Width} {s t : State} {c : Cause} (h : memWrite va w v s = .fault c t) :
    SameCore s t ∧ t.extIrq = s.extIrq ∧ t.mem = s.mem ∧ t.dev = s.dev ∧ (t.bus = s.bus ∨ ∃ k, t.bus = s.bus ++ [k]) := by
  unfold memWrite at h
  split at h
  · rename_i hc
    cases h
    obtain ⟨rfl | rfl, -⟩ := checkAccess_fault hc
    · exact ⟨SameCore.refl _, rfl, rfl, rfl, .inl rfl⟩
    · exact ⟨SameCore.drawn _ _, rfl, rfl, rfl, .inl rfl⟩
  · rename_i pa u hc
    obtain ⟨-, -, hu, -⟩ := checkAccess_done hc
    obtain ⟨-, -, rfl⟩ := busWrite_fault h
    obtain rfl | rfl := hu
    · exact ⟨⟨rfl, rfl, rfl, rfl, rfl, rfl, rfl, rfl, rfl, rfl, rfl⟩, rfl, rfl, rfl, .inr ⟨_, rfl⟩⟩
    · exact ⟨⟨rfl, rfl, rfl, rfl, rfl, rfl, rfl, rfl, rfl, rfl, rfl⟩, rfl, rfl, rfl, .inr ⟨_, rfl⟩⟩

end Sys2Proof.Machine
end

