-- ==== Sys2Proof/Laws/Decode.lean ====
section
/-! SUPPORT. The fields of a word laid out in each of the seven formats (spec 30_encoding.md R122, R133). -/

namespace Sys2Proof

@[simp] theorem opcodeOf_encRRR (op : BitVec 6) (r x y : Reg) : opcodeOf (encRRR op r x y) = op := by
  apply BitVec.eq_of_getLsbD_eq
  intro i hi
  simp only [opcodeOf, encRRR, BitVec.getLsbD_extractLsb', BitVec.getLsbD_append]
  grind

@[simp] theorem fieldA_encRRR (op : BitVec 6) (r x y : Reg) : fieldA (encRRR op r x y) = x := by
  apply BitVec.eq_of_getLsbD_eq
  intro i hi
  simp only [fieldA, encRRR, BitVec.getLsbD_extractLsb', BitVec.getLsbD_append]
  grind

@[simp] theorem fieldB_encRRR (op : BitVec 6) (r x y : Reg) : fieldB (encRRR op r x y) = y := by
  apply BitVec.eq_of_getLsbD_eq
  intro i hi
  simp only [fieldB, encRRR, BitVec.getLsbD_extractLsb', BitVec.getLsbD_append]
  grind

@[simp] theorem fieldC_encRRR (op : BitVec 6) (r x y : Reg) : fieldC (encRRR op r x y) = r := by
  apply BitVec.eq_of_getLsbD_eq
  intro i hi
  simp only [fieldC, encRRR, BitVec.getLsbD_extractLsb', BitVec.getLsbD_append]
  grind

@[simp] theorem opcodeOf_encRRI (op : BitVec 6) (r x : Reg) (y : Half) : opcodeOf (encRRI op r x y) = op := by
  apply BitVec.eq_of_getLsbD_eq
  intro i hi
  simp only [opcodeOf, encRRI, BitVec.getLsbD_extractLsb', BitVec.getLsbD_append]
  grind

@[simp] theorem fieldA_encRRI (op : BitVec 6) (r x : Reg) (y : Half) : fieldA (encRRI op r x y) = x := by
  apply BitVec.eq_of_getLsbD_eq
  intro i hi
  simp only [fieldA, encRRI, BitVec.getLsbD_extractLsb', BitVec.getLsbD_append]
  grind

@[simp] theorem fieldB_encRRI (op : BitVec 6) (r x : Reg) (y : Half) : fieldB (encRRI op r x y) = r := by
  apply BitVec.eq_of_getLsbD_eq
  intro i hi
  simp only [fieldB, encRRI, BitVec.getLsbD_extractLsb', BitVec.getLsbD_append]
  grind

@[simp] theorem imm16_encRRI (op : BitVec 6) (r x : Reg) (y : Half) : imm16 (encRRI op r x y) = y := by
  apply BitVec.eq_of_getLsbD_eq
  intro i hi
  simp only [imm16, encRRI, BitVec.getLsbD_extractLsb', BitVec.getLsbD_append]
  grind

@[simp] theorem opcodeOf_encBR (op : BitVec 6) (x y : Reg) (offset : Half) : opcodeOf (encBR op x y offset) = op := by
  apply BitVec.eq_of_getLsbD_eq
  intro i hi
  simp only [opcodeOf, encBR, BitVec.getLsbD_extractLsb', BitVec.getLsbD_append]
  grind

@[simp] theorem fieldA_encBR (op : BitVec 6) (x y : Reg) (offset : Half) : fieldA (encBR op x y offset) = x := by
  apply BitVec.eq_of_getLsbD_eq
  intro i hi
  simp only [fieldA, encBR, BitVec.getLsbD_extractLsb', BitVec.getLsbD_append]
  grind

@[simp] theorem fieldB_encBR (op : BitVec 6) (x y : Reg) (offset : Half) : fieldB (encBR op x y offset) = y := by
  apply BitVec.eq_of_getLsbD_eq
  intro i hi
  simp only [fieldB, encBR, BitVec.getLsbD_extractLsb', BitVec.getLsbD_append]
  grind

@[simp] theorem imm16_encBR (op : BitVec 6) (x y : Reg) (offset : Half) : imm16 (encBR op x y offset) = offset := by
  apply BitVec.eq_of_getLsbD_eq
  intro i hi
  simp only [imm16, encBR, BitVec.getLsbD_extractLsb', BitVec.getLsbD_append]
  grind

@[simp] theorem opcodeOf_encJ (op : BitVec 6) (offset : BitVec 26) : opcodeOf (encJ op offset) = op := by
  apply BitVec.eq_of_getLsbD_eq
  intro i hi
  simp only [opcodeOf, encJ, BitVec.getLsbD_extractLsb', BitVec.getLsbD_append]
  grind

@[simp] theorem imm26_encJ (op : BitVec 6) (offset : BitVec 26) : imm26 (encJ op offset) = offset := by
  apply BitVec.eq_of_getLsbD_eq
  intro i hi
  simp only [imm26, encJ, BitVec.getLsbD_extractLsb', BitVec.getLsbD_append]
  grind

@[simp] theorem opcodeOf_encJR (op : BitVec 6) (dest : Reg) : opcodeOf (encJR op dest) = op := by
  apply BitVec.eq_of_getLsbD_eq
  intro i hi
  simp only [opcodeOf, encJR, BitVec.getLsbD_extractLsb', BitVec.getLsbD_append]
  grind

@[simp] theorem fieldA_encJR (op : BitVec 6) (dest : Reg) : fieldA (encJR op dest) = dest := by
  apply BitVec.eq_of_getLsbD_eq
  intro i hi
  simp only [fieldA, encJR, BitVec.getLsbD_extractLsb', BitVec.getLsbD_append]
  grind

@[simp] theorem opcodeOf_encN (op : BitVec 6) : opcodeOf (encN op) = op := by
  apply BitVec.eq_of_getLsbD_eq
  intro i hi
  simp only [opcodeOf, encN, BitVec.getLsbD_extractLsb', BitVec.getLsbD_append]
  grind

@[simp] theorem opcodeOf_encSR (op : BitVec 6) (r : Reg) (z : Half) : opcodeOf (encSR op r z) = op := by
  apply BitVec.eq_of_getLsbD_eq
  intro i hi
  simp only [opcodeOf, encSR, BitVec.getLsbD_extractLsb', BitVec.getLsbD_append]
  grind

@[simp] theorem fieldB_encSR (op : BitVec 6) (r : Reg) (z : Half) : fieldB (encSR op r z) = r := by
  apply BitVec.eq_of_getLsbD_eq
  intro i hi
  simp only [fieldB, encSR, BitVec.getLsbD_extractLsb', BitVec.getLsbD_append]
  grind

@[simp] theorem imm16_encSR (op : BitVec 6) (r : Reg) (z : Half) : imm16 (encSR op r z) = z := by
  apply BitVec.eq_of_getLsbD_eq
  intro i hi
  simp only [imm16, encSR, BitVec.getLsbD_extractLsb', BitVec.getLsbD_append]
  grind

/-- The fields of a word laid out again keep all but its ignored bits (R122, R124). -/
theorem encRRR_fields (w : Word) : encRRR (opcodeOf w) (fieldC w) (fieldA w) (fieldB w) = w &&& 0xFFFFF800#32 := by
  apply BitVec.eq_of_getLsbD_eq
  intro i hi
  have hm : (0xFFFFF800#32).getLsbD i = decide (11 ≤ i) := by revert i; decide
  simp only [encRRR, opcodeOf, fieldA, fieldB, fieldC, BitVec.getLsbD_extractLsb', BitVec.getLsbD_append, BitVec.getLsbD_and,
    hm, BitVec.getLsbD_zero]
  grind

/-- The fields of a word laid out again keep all but its ignored bits (R122, R124). -/
theorem encRRI_fields (w : Word) : encRRI (opcodeOf w) (fieldB w) (fieldA w) (imm16 w) = w &&& 0xFFFFFFFF#32 := by
  apply BitVec.eq_of_getLsbD_eq
  intro i hi
  have hm : (0xFFFFFFFF#32).getLsbD i = true := by revert i; decide
  simp only [encRRI, opcodeOf, fieldA, fieldB, imm16, BitVec.getLsbD_extractLsb', BitVec.getLsbD_append, BitVec.getLsbD_and,
    hm]
  grind

/-- The fields of a word laid out again keep all but its ignored bits (R122, R124). -/
theorem encBR_fields (w : Word) : encBR (opcodeOf w) (fieldA w) (fieldB w) (imm16 w) = w &&& 0xFFFFFFFF#32 := by
  apply BitVec.eq_of_getLsbD_eq
  intro i hi
  have hm : (0xFFFFFFFF#32).getLsbD i = true := by revert i; decide
  simp only [encBR, opcodeOf, fieldA, fieldB, imm16, BitVec.getLsbD_extractLsb', BitVec.getLsbD_append, BitVec.getLsbD_and,
    hm]
  grind

/-- The fields of a word laid out again keep all but its ignored bits (R122, R124). -/
theorem encJ_fields (w : Word) : encJ (opcodeOf w) (imm26 w) = w &&& 0xFFFFFFFF#32 := by
  apply BitVec.eq_of_getLsbD_eq
  intro i hi
  have hm : (0xFFFFFFFF#32).getLsbD i = true := by revert i; decide
  simp only [encJ, opcodeOf, imm26, BitVec.getLsbD_extractLsb', BitVec.getLsbD_append, BitVec.getLsbD_and,
    hm]
  grind

/-- The fields of a word laid out again keep all but its ignored bits (R122, R124). -/
theorem encJR_fields (w : Word) : encJR (opcodeOf w) (fieldA w) = w &&& 0xFFE00000#32 := by
  apply BitVec.eq_of_getLsbD_eq
  intro i hi
  have hm : (0xFFE00000#32).getLsbD i = decide (21 ≤ i) := by revert i; decide
  simp only [encJR, opcodeOf, fieldA, BitVec.getLsbD_extractLsb', BitVec.getLsbD_append, BitVec.getLsbD_and,
    hm, BitVec.getLsbD_zero]
  grind

/-- The fields of a word laid out again keep all but its ignored bits (R122, R124). -/
theorem encN_fields (w : Word) : encN (opcodeOf w) = w &&& 0xFC000000#32 := by
  apply BitVec.eq_of_getLsbD_eq
  intro i hi
  have hm : (0xFC000000#32).getLsbD i = decide (26 ≤ i) := by revert i; decide
  simp only [encN, opcodeOf, BitVec.getLsbD_extractLsb', BitVec.getLsbD_append, BitVec.getLsbD_and,
    hm, BitVec.getLsbD_zero]
  grind

/-- The fields of a word laid out again keep all but its ignored bits (R122, R124). -/
theorem encSR_fields (w : Word) : encSR (opcodeOf w) (fieldB w) (imm16 w) = w &&& 0xFC1FFFFF#32 := by
  apply BitVec.eq_of_getLsbD_eq
  intro i hi
  have hm : (0xFC1FFFFF#32).getLsbD i = decide (i < 21 ∨ 26 ≤ i) := by revert i; decide
  simp only [encSR, opcodeOf, fieldB, imm16, BitVec.getLsbD_extractLsb', BitVec.getLsbD_append, BitVec.getLsbD_and,
    hm, BitVec.getLsbD_zero]
  grind

/-- The fields of a word laid out again keep all but its ignored bits (R122, R124). -/
theorem encRRI_fields_ldhi (w : Word) : encRRI (opcodeOf w) (fieldB w) 0#5 (imm16 w) = w &&& 0xFC1FFFFF#32 := by
  apply BitVec.eq_of_getLsbD_eq
  intro i hi
  have hm : (0xFC1FFFFF#32).getLsbD i = decide (i < 21 ∨ 26 ≤ i) := by revert i; decide
  simp only [encRRI, opcodeOf, fieldB, imm16, BitVec.getLsbD_extractLsb', BitVec.getLsbD_append, BitVec.getLsbD_and,
    hm, BitVec.getLsbD_zero]
  grind

/-- The four bytes of a word make the word again (R9, R66). -/
theorem wordOfBytes_bytesOfWord (w : Word) :
    wordOfBytes (w.extractLsb' 24 8) (w.extractLsb' 16 8) (w.extractLsb' 8 8) (w.extractLsb' 0 8) = w := by
  apply BitVec.eq_of_getLsbD_eq
  intro i hi
  simp only [wordOfBytes, BitVec.getLsbD_extractLsb', BitVec.getLsbD_append]
  grind

/-- Decoding the bytes of a word is decoding the word (R120). -/
theorem decode_bytesOfWord (w : Word) (rest : List Byte) :
    decode (bytesOfWord w ++ rest) = match decodeWord w with
      | .ok i => .ok (i, rest)
      | .error e => .error e := by
  show (match decodeWord (wordOfBytes (w.extractLsb' 24 8) (w.extractLsb' 16 8) (w.extractLsb' 8 8)
      (w.extractLsb' 0 8)) with
    | .ok i => Except.ok (i, rest)
    | .error e => .error e) = _
  rw [wordOfBytes_bytesOfWord]

end Sys2Proof
end

