-- ==== Sys2Proof/Laws/Exec.lean ====
section
/-! SUPPORT. Everything an instruction can do, said once: every meaning ends in one of a few operations. -/

namespace Sys2Proof.Machine

/-- The state after a fault of the instruction being executed. -/
theorem raiseFault_eq (c : Cause) (s : State) : raiseFault c s = .next (raise c (s.pc - 4) s) := rfl

theorem writeResult_eq (r : Reg) (v : Word) (s : State) : writeResult r v s = .next (s.setReg r v) := rfl

theorem writeQuotient_of_zero (r : Reg) (v : Word) (s : State) :
    writeQuotient true r v s = .next (raise .divisionByZero (s.pc - 4) s) := rfl

theorem writeQuotient_of_nonzero (r : Reg) (v : Word) (s : State) : writeQuotient false r v s = .next (s.setReg r v) := rfl

/-- What an instruction that is no load, no store and not privileged does (R160, R163, R200, R251). -/
inductive CoreEffect (s : State) : State → Prop where
  | none : CoreEffect s s
  | result (r : Reg) (v : Word) : CoreEffect s (s.setReg r v)
  | jump (target : Word) : CoreEffect s (s.setPc target)
  | link (target : Word) : CoreEffect s ((s.setReg 31 s.pc).setPc target)
  | divisionByZero : CoreEffect s (raise .divisionByZero (s.pc - 4) s)
  | trap : CoreEffect s (raise .trap (s.pc - 4) s)

/-- What a privileged instruction does (R250 to R258). -/
inductive KernelEffect (s : State) : State → Prop where
  | faultUser (hu : s.psw.uc = true) : KernelEffect s (raise .privilegedInstruction (s.pc - 4) s)
  | faultNumber (hk : s.psw.uc = false) : KernelEffect s (raise .illegalInstruction (s.pc - 4) s)
  | rfx (hk : s.psw.uc = false) : KernelEffect s (returnFromException s)
  | mvfs (hk : s.psw.uc = false) (r : Reg) (v : Word) : KernelEffect s (s.setReg r v)
  | mvts (hk : s.psw.uc = false) (z : Half) (v : Word) (t : State) (h : s.setSpecial z v = some t) : KernelEffect s t
  | tbs (hk : s.psw.uc = false) : KernelEffect s (searchTlb s)
  | tbwr (hk : s.psw.uc = false) : KernelEffect s ((s.setEntry (randomIndex s) s.entryFromRegs).setRng (s.rng + 1))
  | tbri (hk : s.psw.uc = false) : KernelEffect s (s.regsFromEntry (s.entry s.tlbIndex.index))
  | tbwi (hk : s.psw.uc = false) : KernelEffect s (s.setEntry s.tlbIndex.index s.entryFromRegs)

/-- What a load does (R230 to R242). -/
inductive LoadEffect (s : State) : State → Prop where
  | done (va : Word) (w : Width) (v : Word) (t : State) (h : memRead va w s = .done v t) (r : Reg) (u : Word) :
    LoadEffect s (t.setReg r u)
  | fault (va : Word) (w : Width) (c : Cause) (t : State) (h : memRead va w s = .fault c t) :
    LoadEffect s (raise c (t.pc - 4) t)

/-- What a store does (R230 to R242). -/
inductive StoreEffect (s : State) : State → Prop where
  | done (va : Word) (w : Width) (v k : Word) (t : State) (h : memWrite va w v s = .done k t) : StoreEffect s t
  | fault (va : Word) (w : Width) (v : Word) (c : Cause) (t : State) (h : memWrite va w v s = .fault c t) :
    StoreEffect s (raise c (t.pc - 4) t)

theorem writeQuotient_effect (zero : Bool) (r : Reg) (v : Word) (s : State) :
    ∃ t, writeQuotient zero r v s = .next t ∧ CoreEffect s t := by
  cases zero
  · exact ⟨_, rfl, .result r v⟩
  · exact ⟨_, rfl, .divisionByZero⟩

theorem branch_effect (taken : Bool) (offset : Half) (s : State) :
    ∃ t, branch taken offset s = .next t ∧ CoreEffect s t := by
  cases taken
  · exact ⟨_, rfl, .none⟩
  · exact ⟨_, rfl, .jump _⟩

/-- JALR reads its target before it writes x[31], so the order of its two writes does not matter (R214). -/
theorem execJalr_eq (dest : Reg) (s : State) :
    execJalr dest s = .next ((s.setReg 31 s.pc).setPc (s.reg dest)) := by
  simp [execJalr, State.setReg, State.setPc]

theorem finishLoad_effect (r : Reg) (f : Word → Word) (va : Word) (w : Width) (s : State) :
    ∃ t, finishLoad r f (memRead va w s) = .next t ∧ LoadEffect s t := by
  cases h : memRead va w s with
  | done v t => exact ⟨_, rfl, .done va w v t h r (f v)⟩
  | fault c t => exact ⟨_, rfl, .fault va w c t h⟩

theorem finishStore_effect (va : Word) (w : Width) (v : Word) (s : State) :
    ∃ t, finishStore (memWrite va w v s) = .next t ∧ StoreEffect s t := by
  cases h : memWrite va w v s with
  | done k t => exact ⟨_, rfl, .done va w v k t h⟩
  | fault c t => exact ⟨_, rfl, .fault va w v c t h⟩

/-- A privileged instruction whose own text always has one of the effects above has one of them. -/
theorem privileged_effect (body : State → Result) (s : State)
    (h : s.psw.uc = false → ∃ t, body s = .next t ∧ KernelEffect s t) :
    ∃ t, privileged body s = .next t ∧ KernelEffect s t := by
  cases hu : s.psw.uc
  · obtain ⟨t, ht, hk⟩ := h hu
    exact ⟨t, by rw [privileged_kernel body hu, ht], hk⟩
  · exact ⟨_, privileged_user body hu, .faultUser hu⟩

/-! ## The privileged instructions, mode by mode (R250 to R258) -/

/-- RFX in Kernel Mode. -/
theorem execRfx_kernel {s : State} (h : s.psw.uc = false) : execRfx s = .next (returnFromException s) := by
  simp [execRfx, privileged, h]

/-- MVFS in Kernel Mode of a special register that exists. -/
theorem execMvfs_kernel {s : State} {r : Reg} {z : Half} {v : Word} (h : s.psw.uc = false) (hz : s.special z = some v) :
    execMvfs r z s = .next (s.setReg r v) := by
  simp [execMvfs, privileged, h, hz]

/-- MVTS in Kernel Mode of a special register that exists. -/
theorem execMvts_kernel {s t : State} {r : Reg} {z : Half} (h : s.psw.uc = false)
    (hz : s.setSpecial z (s.reg r) = some t) : execMvts r z s = .next t := by
  simp [execMvts, privileged, h, hz]

/-- TBS in Kernel Mode. -/
theorem execTbs_kernel {s : State} (h : s.psw.uc = false) : execTbs s = .next (searchTlb s) := by
  simp [execTbs, privileged, h]

/-- TBWR in Kernel Mode. -/
theorem execTbwr_kernel {s : State} (h : s.psw.uc = false) :
    execTbwr s = .next ((s.setEntry (randomIndex s) s.entryFromRegs).setRng (s.rng + 1)) := by
  simp [execTbwr, privileged, h]

/-- TBRI in Kernel Mode. -/
theorem execTbri_kernel {s : State} (h : s.psw.uc = false) :
    execTbri s = .next (s.regsFromEntry (s.entry s.tlbIndex.index)) := by
  simp [execTbri, privileged, h]

/-- TBWI in Kernel Mode. -/
theorem execTbwi_kernel {s : State} (h : s.psw.uc = false) :
    execTbwi s = .next (s.setEntry s.tlbIndex.index s.entryFromRegs) := by
  simp [execTbwi, privileged, h]

/-! ## Every instruction -/

/-- The loads (R230). -/
def Instr.IsLoad (i : Instr) : Prop :=
  ∃ r x y, i = .ldw r x y ∨ i = .ldh r x y ∨ i = .ldhu r x y ∨ i = .ldb r x y ∨ i = .ldbu r x y

/-- The stores (R230). -/
def Instr.IsStore (i : Instr) : Prop := ∃ r x y, i = .stw r x y ∨ i = .sth r x y ∨ i = .stb r x y

/-- All that an instruction can do: it has a next state, which is one of the effects above. -/
theorem exec_effect (i : Instr) (s : State) :
    ∃ t, exec i s = .next t ∧
      (CoreEffect s t ∨ KernelEffect s t ∨ (Instr.IsLoad i ∧ LoadEffect s t) ∨ (Instr.IsStore i ∧ StoreEffect s t)) := by
  have core : ∀ {R : Result}, (∃ t, R = .next t ∧ CoreEffect s t) → ∃ t, R = .next t ∧
      (CoreEffect s t ∨ KernelEffect s t ∨ (Instr.IsLoad i ∧ LoadEffect s t) ∨ (Instr.IsStore i ∧ StoreEffect s t)) :=
    fun ⟨t, h, k⟩ => ⟨t, h, .inl k⟩
  have kernel : ∀ {R : Result}, (∃ t, R = .next t ∧ KernelEffect s t) → ∃ t, R = .next t ∧
      (CoreEffect s t ∨ KernelEffect s t ∨ (Instr.IsLoad i ∧ LoadEffect s t) ∨ (Instr.IsStore i ∧ StoreEffect s t)) :=
    fun ⟨t, h, k⟩ => ⟨t, h, .inr (.inl k)⟩
  have load : ∀ {R : Result}, Instr.IsLoad i → (∃ t, R = .next t ∧ LoadEffect s t) → ∃ t, R = .next t ∧
      (CoreEffect s t ∨ KernelEffect s t ∨ (Instr.IsLoad i ∧ LoadEffect s t) ∨ (Instr.IsStore i ∧ StoreEffect s t)) :=
    fun hi ⟨t, h, k⟩ => ⟨t, h, .inr (.inr (.inl ⟨hi, k⟩))⟩
  have store : ∀ {R : Result}, Instr.IsStore i → (∃ t, R = .next t ∧ StoreEffect s t) → ∃ t, R = .next t ∧
      (CoreEffect s t ∨ KernelEffect s t ∨ (Instr.IsLoad i ∧ LoadEffect s t) ∨ (Instr.IsStore i ∧ StoreEffect s t)) :=
    fun hi ⟨t, h, k⟩ => ⟨t, h, .inr (.inr (.inr ⟨hi, k⟩))⟩
  cases i with
  | beq x y offset => exact core (branch_effect _ _ _)
  | bne x y offset => exact core (branch_effect _ _ _)
  | ble x y offset => exact core (branch_effect _ _ _)
  | bleu x y offset => exact core (branch_effect _ _ _)
  | blt x y offset => exact core (branch_effect _ _ _)
  | bltu x y offset => exact core (branch_effect _ _ _)
  | bge x y offset => exact core (branch_effect _ _ _)
  | bgeu x y offset => exact core (branch_effect _ _ _)
  | bgt x y offset => exact core (branch_effect _ _ _)
  | bgtu x y offset => exact core (branch_effect _ _ _)
  | j offset => exact core ⟨_, rfl, .jump _⟩
  | jr dest => exact core ⟨_, rfl, .jump _⟩
  | jal offset => exact core ⟨_, rfl, .link _⟩
  | jalr dest => exact core ⟨_, execJalr_eq dest s, .link _⟩
  | trap => exact core ⟨_, rfl, .trap⟩
  | rfx =>
    simp only [exec, execRfx]
    refine kernel (privileged_effect _ s ?_)
    exact fun hk => ⟨_, rfl, .rfx hk⟩
  | mvfs r z =>
    simp only [exec, execMvfs]
    refine kernel (privileged_effect _ s ?_)
    intro hk
    cases h : s.special z with
    | some v => exact ⟨_, rfl, .mvfs hk r v⟩
    | none => exact ⟨_, rfl, .faultNumber hk⟩
  | mvts r z =>
    simp only [exec, execMvts]
    refine kernel (privileged_effect _ s ?_)
    intro hk
    cases h : s.setSpecial z (s.reg r) with
    | some v => exact ⟨_, rfl, .mvts hk z (s.reg r) v h⟩
    | none => exact ⟨_, rfl, .faultNumber hk⟩
  | tbs =>
    simp only [exec, execTbs]
    refine kernel (privileged_effect _ s ?_)
    exact fun hk => ⟨_, rfl, .tbs hk⟩
  | tbwr =>
    simp only [exec, execTbwr]
    refine kernel (privileged_effect _ s ?_)
    exact fun hk => ⟨_, rfl, .tbwr hk⟩
  | tbri =>
    simp only [exec, execTbri]
    refine kernel (privileged_effect _ s ?_)
    exact fun hk => ⟨_, rfl, .tbri hk⟩
  | tbwi =>
    simp only [exec, execTbwi]
    refine kernel (privileged_effect _ s ?_)
    exact fun hk => ⟨_, rfl, .tbwi hk⟩
  | ldw r x y => exact load ⟨r, x, y, by simp⟩ (finishLoad_effect _ _ _ _ _)
  | ldh r x y => exact load ⟨r, x, y, by simp⟩ (finishLoad_effect _ _ _ _ _)
  | ldhu r x y => exact load ⟨r, x, y, by simp⟩ (finishLoad_effect _ _ _ _ _)
  | ldb r x y => exact load ⟨r, x, y, by simp⟩ (finishLoad_effect _ _ _ _ _)
  | ldbu r x y => exact load ⟨r, x, y, by simp⟩ (finishLoad_effect _ _ _ _ _)
  | stw r x y => exact store ⟨r, x, y, by simp⟩ (finishStore_effect _ _ _ _)
  | sth r x y => exact store ⟨r, x, y, by simp⟩ (finishStore_effect _ _ _ _)
  | stb r x y => exact store ⟨r, x, y, by simp⟩ (finishStore_effect _ _ _ _)
  | div r x y => exact core (writeQuotient_effect _ _ _ _)
  | divi r x y => exact core (writeQuotient_effect _ _ _ _)
  | divu r x y => exact core (writeQuotient_effect _ _ _ _)
  | divui r x y => exact core (writeQuotient_effect _ _ _ _)
  | rem r x y => exact core (writeQuotient_effect _ _ _ _)
  | remi r x y => exact core (writeQuotient_effect _ _ _ _)
  | remu r x y => exact core (writeQuotient_effect _ _ _ _)
  | remui r x y => exact core (writeQuotient_effect _ _ _ _)
  | _ => exact core ⟨_, rfl, .result _ _⟩

end Sys2Proof.Machine
end

