-- ==== Sys2Proof/Laws/Flags.lean ====
section
/-! SUPPORT. The ten branch conditions as propositions (spec 41_control_flow.md R203 to R212). -/

namespace Sys2Proof.Machine

@[simp] theorem condEq_iff (a b : Word) : condEq a b = true ↔ a = b := by simp [condEq]

@[simp] theorem condNe_iff (a b : Word) : condNe a b = true ↔ a ≠ b := by simp [condNe]

@[simp] theorem condLe_iff (a b : Word) : condLe a b = true ↔ a.toInt ≤ b.toInt := by simp [condLe]

@[simp] theorem condLeU_iff (a b : Word) : condLeU a b = true ↔ a.toNat ≤ b.toNat := by simp [condLeU]

@[simp] theorem condLt_iff (a b : Word) : condLt a b = true ↔ a.toInt < b.toInt := by simp [condLt]

@[simp] theorem condLtU_iff (a b : Word) : condLtU a b = true ↔ a.toNat < b.toNat := by simp [condLtU]

@[simp] theorem condGe_iff (a b : Word) : condGe a b = true ↔ b.toInt ≤ a.toInt := by simp [condGe]

@[simp] theorem condGeU_iff (a b : Word) : condGeU a b = true ↔ b.toNat ≤ a.toNat := by simp [condGeU]

@[simp] theorem condGt_iff (a b : Word) : condGt a b = true ↔ b.toInt < a.toInt := by simp [condGt]

@[simp] theorem condGtU_iff (a b : Word) : condGtU a b = true ↔ b.toNat < a.toNat := by simp [condGtU]

end Sys2Proof.Machine
end

