-- ==== Sys2Proof/Laws/Loop.lean ====
section
/-! SUPPORT. Everything one turn of the execution loop can do: events, the fetch, the interrupt test, and the cases of a
step. -/

namespace Sys2Proof.Machine

/-! ## Events (R321, R301) -/

/-- An event reaches the devices, the lines and the counter of free values, nothing else. -/
theorem applyEvent_frame (e : Event) (s : State) :
    SameCore s (applyEvent e s) ∧ (applyEvent e s).mem = s.mem ∧ (applyEvent e s).bus = s.bus ∧
      (s.dev.wf = true → (applyEvent e s).dev.wf = true) := by
  have core : ∀ d k, SameCore s ((s.setDev d).drawn k) := fun _ _ => ⟨rfl, rfl, rfl, rfl, rfl, rfl, rfl, rfl, rfl, rfl, rfl⟩
  cases e with
  | irqLines level => exact ⟨⟨rfl, rfl, rfl, rfl, rfl, rfl, rfl, rfl, rfl, rfl, rfl⟩, rfl, rfl, fun h => h⟩
  | _ => exact ⟨core _ _, rfl, rfl, fun h => Devices.wf_event _ _ _ h⟩

/-- The same of a list of events. -/
theorem applyEvents_frame (l : List Event) (s : State) :
    SameCore s (applyEvents l s) ∧ (applyEvents l s).mem = s.mem ∧ (applyEvents l s).bus = s.bus ∧
      (s.dev.wf = true → (applyEvents l s).dev.wf = true) := by
  induction l generalizing s with
  | nil => exact ⟨SameCore.refl s, rfl, rfl, fun h => h⟩
  | cons e rest ih =>
    obtain ⟨h1, h2, h3, h4⟩ := applyEvent_frame e s
    obtain ⟨k1, k2, k3, k4⟩ := ih (applyEvent e s)
    exact ⟨h1.trans k1, k2.trans h2, k3.trans h3, fun h => k4 (h4 h)⟩

/-! ## The interrupt test (R285, R300) -/

theorem State.mem_signalled (s : State) (i : Nat) :
    i ∈ s.signalled ↔ i < 16 ∧ s.irq i = true ∧ s.psw.ien.getLsbD i = true := by
  simp [State.signalled]

theorem chooseLine_none (n : Nat) (a : List Nat) : chooseLine n a = none ↔ a = [] := by
  match a with
  | [] => simp [chooseLine]
  | [i] => simp [chooseLine]
  | i :: j :: rest => simp [chooseLine]

/-- The line chosen is one of those admitted (R297). -/
theorem chooseLine_mem {n i : Nat} {a : List Nat} (h : chooseLine n a = some i) : i ∈ a := by
  match a with
  | [] => simp [chooseLine] at h
  | [j] => simp [chooseLine] at h; simp [h]
  | j :: k :: rest =>
    simp only [chooseLine, Option.some.injEq] at h
    subst h
    have hlt : Config.irqSelect n (j :: k :: rest) % (j :: k :: rest).length < (j :: k :: rest).length :=
      Nat.mod_lt _ (by simp)
    rw [List.getD_eq_getElem _ _ hlt]
    exact List.getElem_mem hlt

/-- All that the interrupt test can do: nothing, or accept one admitted interrupt. -/
theorem interruptTest_cases (s : State) :
    (interruptTest s = s ∧ (s.psw.ic = false ∨ s.signalled = [])) ∨
    (s.psw.ic = true ∧ ∃ i, i ∈ s.signalled ∧
      interruptTest s = accept (.interrupt (BitVec.ofNat 4 i)) s.pc (s.drawn 1)) := by
  unfold interruptTest
  cases hic : s.psw.ic
  · exact .inl ⟨by simp, .inl rfl⟩
  · cases hc : chooseLine s.draws s.signalled with
    | none => exact .inl ⟨by simp, .inr ((chooseLine_none _ _).1 hc)⟩
    | some i => exact .inr ⟨rfl, i, chooseLine_mem hc, by simp⟩

/-! ## Fetch and execute (R285 steps 1 to 5) -/

/-- All that fetching and executing can do: the fault of the fetch, the Illegal Instruction Fault, or the instruction. -/
theorem fetchAndExecute_cases (s : State) :
    (∃ c t, fetch s = .fault c t ∧ fetchAndExecute s = .next (raise c s.pc t)) ∨
    (∃ w t e, fetch s = .done w t ∧ decodeWord w = .error e ∧
      fetchAndExecute s = .next (raise .illegalInstruction s.pc (t.setPc (s.pc + 4)))) ∨
    (∃ w t i, fetch s = .done w t ∧ decodeWord w = .ok i ∧ fetchAndExecute s = exec i (t.setPc (s.pc + 4))) := by
  unfold fetchAndExecute
  cases hf : fetch s with
  | fault c t => exact .inl ⟨c, t, rfl, rfl⟩
  | done w t =>
    cases hd : decodeWord w with
    | error e => exact .inr (.inl ⟨w, t, e, rfl, hd, by simp [hd]⟩)
    | ok i => exact .inr (.inr ⟨w, t, i, rfl, hd, by simp [hd]⟩)

/-- Fetching and executing always has a next state (R371). -/
theorem fetchAndExecute_next (s : State) : ∃ t, fetchAndExecute s = .next t := by
  obtain ⟨c, t, -, h⟩ | ⟨w, t, e, -, -, h⟩ | ⟨w, t, i, -, -, h⟩ := fetchAndExecute_cases s
  · exact ⟨_, h⟩
  · exact ⟨_, h⟩
  · obtain ⟨u, hu, -⟩ := exec_effect i (t.setPc (s.pc + 4))
    exact ⟨u, h.trans hu⟩

/-- The state in which a turn fetches. -/
theorem atFetch_frame (s : State) :
    (applyEvents s.turnInput.before (beginTurn s)).psw = s.psw ∧
    (applyEvents s.turnInput.before (beginTurn s)).mem = s.mem ∧
    (applyEvents s.turnInput.before (beginTurn s)).cfg = s.cfg ∧
    (applyEvents s.turnInput.before (beginTurn s)).pc = s.pc := by
  obtain ⟨h, hm, -, -⟩ := applyEvents_frame s.turnInput.before (beginTurn s)
  exact ⟨h.psw, hm, h.cfg, h.pc⟩

/-- All that a step can do: the reset line's turn, or fetch and execute, the events after it, and the interrupt test. -/
theorem step_cases {s t : State} (h : step s = .next t) :
    (s.turnInput.reset = true ∧
      t = resetLine (applyEvents s.turnInput.after (applyEvents s.turnInput.before (beginTurn s)))) ∨
    (s.turnInput.reset = false ∧ ∃ u, fetchAndExecute (applyEvents s.turnInput.before (beginTurn s)) = .next u ∧
      t = interruptTest (applyEvents s.turnInput.after u)) := by
  unfold step turn at h
  cases hr : s.turnInput.reset
  · simp only [hr] at h
    obtain ⟨u, hu⟩ := fetchAndExecute_next (applyEvents s.turnInput.before (beginTurn s))
    rw [hu] at h
    refine .inr ⟨rfl, u, hu, ?_⟩
    simpa [endTurn] using h.symm
  · simp only [hr] at h
    refine .inl ⟨rfl, ?_⟩
    simpa using h.symm

end Sys2Proof.Machine
end

