-- ==== Sys2Proof/Laws/Operands.lean ====
section
/-! SUPPORT. The operand forms as numbers (spec 30_encoding.md R125, R126; 42_load_store.md R232). -/

namespace Sys2Proof.Machine

/-- A sign-extended immediate has the immediate's signed value (R125). -/
theorem toInt_sext (y : Half) : (sext y).toInt = y.toInt := BitVec.toInt_signExtend_of_le (by decide)

/-- A zero-extended immediate has the immediate's value (R125). -/
theorem toNat_zext (y : Half) : (zext y).toNat = y.toNat := by
  have := y.isLt
  simp only [zext, BitVec.toNat_setWidth]
  omega

/-- An upper immediate is the immediate times 65536 (R194). -/
theorem toNat_upper (y : Half) : (upper y).toNat = y.toNat * 65536 := by
  rw [upper, BitVec.toNat_append]
  simp [Nat.shiftLeft_eq]

/-- The target of a branch as a sum of integers, modulo 2^32 (R126, R200). -/
theorem branchTarget_eq (pc : Word) (offset : Half) :
    branchTarget pc offset = BitVec.ofInt 32 (pc.toInt + 4 * offset.toInt) := by
  have : (offset.signExtend 32).toInt = offset.toInt := BitVec.toInt_signExtend_of_le (by decide)
  rw [← this, BitVec.ofInt_add, BitVec.ofInt_mul]
  simp [branchTarget, BitVec.ofInt_toInt]

/-- The target of J and JAL as a sum of integers, modulo 2^32 (R126, R200). -/
theorem jumpTarget_eq (pc : Word) (offset : BitVec 26) :
    jumpTarget pc offset = BitVec.ofInt 32 (pc.toInt + 4 * offset.toInt) := by
  have : (offset.signExtend 32).toInt = offset.toInt := BitVec.toInt_signExtend_of_le (by decide)
  rw [← this, BitVec.ofInt_add, BitVec.ofInt_mul]
  simp [jumpTarget, BitVec.ofInt_toInt]

/-- The shift count of a register operand is its value modulo 32 (R188). -/
theorem countOfWord_eq (y : Word) : countOfWord y = y.toNat % 32 := by simp [countOfWord]

/-- The shift count of an immediate is its value modulo 32 (R189). -/
theorem countOfImm_eq (y : Half) : countOfImm y = y.toNat % 32 := by simp [countOfImm]

theorem low_setWidth {n : Nat} (h : n ≤ 32) (v : BitVec n) : (v.setWidth 32).extractLsb' 0 n = v := by
  apply BitVec.eq_of_toNat_eq
  have := v.isLt
  have := Nat.pow_le_pow_right (n := 2) (by decide) h
  simp only [BitVec.extractLsb'_toNat, BitVec.toNat_setWidth, Nat.shiftRight_zero]
  rw [Nat.mod_eq_of_lt (by omega), Nat.mod_eq_of_lt (by omega)]

/-- The extensions of a loaded half-word and byte (R232). -/
theorem signHalf_setWidth (v : Half) : signHalf (v.setWidth 32) = v.signExtend 32 := by
  rw [signHalf, low_setWidth (by decide)]

theorem zeroHalf_setWidth (v : Half) : zeroHalf (v.setWidth 32) = v.setWidth 32 := by
  rw [zeroHalf, low_setWidth (by decide)]

theorem signByte_setWidth (v : Byte) : signByte (v.setWidth 32) = v.signExtend 32 := by
  rw [signByte, low_setWidth (by decide)]

theorem zeroByte_setWidth (v : Byte) : zeroByte (v.setWidth 32) = v.setWidth 32 := by
  rw [zeroByte, low_setWidth (by decide)]

end Sys2Proof.Machine
end

