-- ==== Sys2Proof/Laws/PerInstr.lean ====
section
/-! SUPPORT. One lemma per instruction: its word carries its row's opcode (spec 30_encoding.md R130). -/

namespace Sys2Proof.Laws.EncodesOpcode

/-- The opcode of each instruction (R130). -/
def opcode : Instr → BitVec 6
  | .add _ _ _ => 0x00
  | .addi _ _ _ => 0x01
  | .sub _ _ _ => 0x02
  | .subi _ _ _ => 0x03
  | .mul _ _ _ => 0x04
  | .muli _ _ _ => 0x05
  | .mulu _ _ _ => 0x06
  | .mului _ _ _ => 0x07
  | .div _ _ _ => 0x08
  | .divi _ _ _ => 0x09
  | .divu _ _ _ => 0x0A
  | .divui _ _ _ => 0x0B
  | .rem _ _ _ => 0x0C
  | .remi _ _ _ => 0x0D
  | .remu _ _ _ => 0x0E
  | .remui _ _ _ => 0x0F
  | .and _ _ _ => 0x10
  | .andi _ _ _ => 0x11
  | .or _ _ _ => 0x12
  | .ori _ _ _ => 0x13
  | .xor _ _ _ => 0x14
  | .xori _ _ _ => 0x15
  | .xnor _ _ _ => 0x16
  | .xnori _ _ _ => 0x17
  | .sll _ _ _ => 0x18
  | .slli _ _ _ => 0x19
  | .slr _ _ _ => 0x1A
  | .slri _ _ _ => 0x1B
  | .sar _ _ _ => 0x1C
  | .sari _ _ _ => 0x1D
  | .ldhi _ _ => 0x1F
  | .beq _ _ _ => 0x20
  | .bne _ _ _ => 0x21
  | .ble _ _ _ => 0x22
  | .bleu _ _ _ => 0x23
  | .blt _ _ _ => 0x24
  | .bltu _ _ _ => 0x25
  | .bge _ _ _ => 0x26
  | .bgeu _ _ _ => 0x27
  | .bgt _ _ _ => 0x28
  | .bgtu _ _ _ => 0x29
  | .j _ => 0x2A
  | .jr _ => 0x2B
  | .jal _ => 0x2C
  | .jalr _ => 0x2D
  | .trap => 0x2E
  | .rfx => 0x2F
  | .ldw _ _ _ => 0x30
  | .ldh _ _ _ => 0x31
  | .ldhu _ _ _ => 0x32
  | .ldb _ _ _ => 0x33
  | .ldbu _ _ _ => 0x34
  | .stw _ _ _ => 0x35
  | .sth _ _ _ => 0x36
  | .stb _ _ _ => 0x37
  | .mvfs _ _ => 0x38
  | .mvts _ _ => 0x39
  | .tbs => 0x3A
  | .tbwr => 0x3B
  | .tbri => 0x3C
  | .tbwi => 0x3D

/-- The word of the instruction carries its opcode in bits 31..26. -/
def Statement (i : Instr) : Prop := opcodeOf (encode i) = opcode i

theorem add (r x y : Reg) : Statement (.add r x y) := opcodeOf_encRRR ..
theorem addi (r x : Reg) (y : Half) : Statement (.addi r x y) := opcodeOf_encRRI ..
theorem sub (r x y : Reg) : Statement (.sub r x y) := opcodeOf_encRRR ..
theorem subi (r x : Reg) (y : Half) : Statement (.subi r x y) := opcodeOf_encRRI ..
theorem mul (r x y : Reg) : Statement (.mul r x y) := opcodeOf_encRRR ..
theorem muli (r x : Reg) (y : Half) : Statement (.muli r x y) := opcodeOf_encRRI ..
theorem mulu (r x y : Reg) : Statement (.mulu r x y) := opcodeOf_encRRR ..
theorem mului (r x : Reg) (y : Half) : Statement (.mului r x y) := opcodeOf_encRRI ..
theorem div (r x y : Reg) : Statement (.div r x y) := opcodeOf_encRRR ..
theorem divi (r x : Reg) (y : Half) : Statement (.divi r x y) := opcodeOf_encRRI ..
theorem divu (r x y : Reg) : Statement (.divu r x y) := opcodeOf_encRRR ..
theorem divui (r x : Reg) (y : Half) : Statement (.divui r x y) := opcodeOf_encRRI ..
theorem rem (r x y : Reg) : Statement (.rem r x y) := opcodeOf_encRRR ..
theorem remi (r x : Reg) (y : Half) : Statement (.remi r x y) := opcodeOf_encRRI ..
theorem remu (r x y : Reg) : Statement (.remu r x y) := opcodeOf_encRRR ..
theorem remui (r x : Reg) (y : Half) : Statement (.remui r x y) := opcodeOf_encRRI ..
theorem and (r x y : Reg) : Statement (.and r x y) := opcodeOf_encRRR ..
theorem andi (r x : Reg) (y : Half) : Statement (.andi r x y) := opcodeOf_encRRI ..
theorem or (r x y : Reg) : Statement (.or r x y) := opcodeOf_encRRR ..
theorem ori (r x : Reg) (y : Half) : Statement (.ori r x y) := opcodeOf_encRRI ..
theorem xor (r x y : Reg) : Statement (.xor r x y) := opcodeOf_encRRR ..
theorem xori (r x : Reg) (y : Half) : Statement (.xori r x y) := opcodeOf_encRRI ..
theorem xnor (r x y : Reg) : Statement (.xnor r x y) := opcodeOf_encRRR ..
theorem xnori (r x : Reg) (y : Half) : Statement (.xnori r x y) := opcodeOf_encRRI ..
theorem sll (r x y : Reg) : Statement (.sll r x y) := opcodeOf_encRRR ..
theorem slli (r x : Reg) (y : Half) : Statement (.slli r x y) := opcodeOf_encRRI ..
theorem slr (r x y : Reg) : Statement (.slr r x y) := opcodeOf_encRRR ..
theorem slri (r x : Reg) (y : Half) : Statement (.slri r x y) := opcodeOf_encRRI ..
theorem sar (r x y : Reg) : Statement (.sar r x y) := opcodeOf_encRRR ..
theorem sari (r x : Reg) (y : Half) : Statement (.sari r x y) := opcodeOf_encRRI ..
theorem ldhi (r : Reg) (y : Half) : Statement (.ldhi r y) := opcodeOf_encRRI ..
theorem beq (x y : Reg) (offset : Half) : Statement (.beq x y offset) := opcodeOf_encBR ..
theorem bne (x y : Reg) (offset : Half) : Statement (.bne x y offset) := opcodeOf_encBR ..
theorem ble (x y : Reg) (offset : Half) : Statement (.ble x y offset) := opcodeOf_encBR ..
theorem bleu (x y : Reg) (offset : Half) : Statement (.bleu x y offset) := opcodeOf_encBR ..
theorem blt (x y : Reg) (offset : Half) : Statement (.blt x y offset) := opcodeOf_encBR ..
theorem bltu (x y : Reg) (offset : Half) : Statement (.bltu x y offset) := opcodeOf_encBR ..
theorem bge (x y : Reg) (offset : Half) : Statement (.bge x y offset) := opcodeOf_encBR ..
theorem bgeu (x y : Reg) (offset : Half) : Statement (.bgeu x y offset) := opcodeOf_encBR ..
theorem bgt (x y : Reg) (offset : Half) : Statement (.bgt x y offset) := opcodeOf_encBR ..
theorem bgtu (x y : Reg) (offset : Half) : Statement (.bgtu x y offset) := opcodeOf_encBR ..
theorem j (offset : BitVec 26) : Statement (.j offset) := opcodeOf_encJ ..
theorem jr (dest : Reg) : Statement (.jr dest) := opcodeOf_encJR ..
theorem jal (offset : BitVec 26) : Statement (.jal offset) := opcodeOf_encJ ..
theorem jalr (dest : Reg) : Statement (.jalr dest) := opcodeOf_encJR ..
theorem trap : Statement (.trap) := opcodeOf_encN ..
theorem rfx : Statement (.rfx) := opcodeOf_encN ..
theorem ldw (r x : Reg) (y : Half) : Statement (.ldw r x y) := opcodeOf_encRRI ..
theorem ldh (r x : Reg) (y : Half) : Statement (.ldh r x y) := opcodeOf_encRRI ..
theorem ldhu (r x : Reg) (y : Half) : Statement (.ldhu r x y) := opcodeOf_encRRI ..
theorem ldb (r x : Reg) (y : Half) : Statement (.ldb r x y) := opcodeOf_encRRI ..
theorem ldbu (r x : Reg) (y : Half) : Statement (.ldbu r x y) := opcodeOf_encRRI ..
theorem stw (r x : Reg) (y : Half) : Statement (.stw r x y) := opcodeOf_encRRI ..
theorem sth (r x : Reg) (y : Half) : Statement (.sth r x y) := opcodeOf_encRRI ..
theorem stb (r x : Reg) (y : Half) : Statement (.stb r x y) := opcodeOf_encRRI ..
theorem mvfs (r : Reg) (z : Half) : Statement (.mvfs r z) := opcodeOf_encSR ..
theorem mvts (r : Reg) (z : Half) : Statement (.mvts r z) := opcodeOf_encSR ..
theorem tbs : Statement (.tbs) := opcodeOf_encN ..
theorem tbwr : Statement (.tbwr) := opcodeOf_encN ..
theorem tbri : Statement (.tbri) := opcodeOf_encN ..
theorem tbwi : Statement (.tbwi) := opcodeOf_encN ..

end Sys2Proof.Laws.EncodesOpcode
end

