-- ==== Sys2Proof/Laws/Words.lean ====
section
/-! SUPPORT. The fields of the special registers at their bits (spec 10_state.md R28, R35, R37, R38). -/

namespace Sys2Proof.Machine

/-! ## PSW (R28) -/

theorem Psw.toWord_v (p : Psw) : p.toWord.getLsbD 27 = p.v := by
  simp only [Psw.toWord, BitVec.getLsbD_append]
  simp

theorem Psw.toWord_uc (p : Psw) : p.toWord.getLsbD 26 = p.uc := by
  simp only [Psw.toWord, BitVec.getLsbD_append]
  simp

theorem Psw.toWord_up (p : Psw) : p.toWord.getLsbD 25 = p.up := by
  simp only [Psw.toWord, BitVec.getLsbD_append]
  simp

theorem Psw.toWord_uo (p : Psw) : p.toWord.getLsbD 24 = p.uo := by
  simp only [Psw.toWord, BitVec.getLsbD_append]
  simp

theorem Psw.toWord_ic (p : Psw) : p.toWord.getLsbD 23 = p.ic := by
  simp only [Psw.toWord, BitVec.getLsbD_append]
  simp

theorem Psw.toWord_ip (p : Psw) : p.toWord.getLsbD 22 = p.ip := by
  simp only [Psw.toWord, BitVec.getLsbD_append]
  simp

theorem Psw.toWord_io (p : Psw) : p.toWord.getLsbD 21 = p.io := by
  simp only [Psw.toWord, BitVec.getLsbD_append]
  simp

theorem Psw.toWord_ignored (p : Psw) : p.toWord.extractLsb' 28 4 = p.ignored := by
  apply BitVec.eq_of_getLsbD_eq
  intro i hi
  simp only [Psw.toWord, BitVec.getLsbD_append, BitVec.getLsbD_extractLsb']
  grind

theorem Psw.toWord_eid (p : Psw) : p.toWord.extractLsb' 16 5 = p.eid := by
  apply BitVec.eq_of_getLsbD_eq
  intro i hi
  simp only [Psw.toWord, BitVec.getLsbD_append, BitVec.getLsbD_extractLsb']
  grind

theorem Psw.toWord_ien (p : Psw) : p.toWord.extractLsb' 0 16 = p.ien := by
  apply BitVec.eq_of_getLsbD_eq
  intro i hi
  simp only [Psw.toWord, BitVec.getLsbD_append, BitVec.getLsbD_extractLsb']
  grind

/-! ## S[1] (R35) -/

theorem TlbIndex.toWord_miss (p : TlbIndex) : p.toWord.getLsbD 31 = p.miss := by
  simp only [TlbIndex.toWord, BitVec.getLsbD_append]
  simp

theorem TlbIndex.toWord_ignored (p : TlbIndex) : p.toWord.extractLsb' 5 26 = p.ignored := by
  apply BitVec.eq_of_getLsbD_eq
  intro i hi
  simp only [TlbIndex.toWord, BitVec.getLsbD_append, BitVec.getLsbD_extractLsb']
  grind

theorem TlbIndex.toWord_index (p : TlbIndex) : p.toWord.extractLsb' 0 5 = p.index := by
  apply BitVec.eq_of_getLsbD_eq
  intro i hi
  simp only [TlbIndex.toWord, BitVec.getLsbD_append, BitVec.getLsbD_extractLsb']
  grind

/-- TBRI and TBWI use S[1] MOD 32 (R35). -/
theorem TlbIndex.toWord_mod (p : TlbIndex) : p.toWord.toNat % 32 = p.index.toNat := by
  rw [← p.toWord_index]
  simp

/-! ## S[2] (R37) -/

theorem TlbHigh.toWord_page (p : TlbHigh) : p.toWord.extractLsb' 12 20 = p.page := by
  apply BitVec.eq_of_getLsbD_eq
  intro i hi
  simp only [TlbHigh.toWord, BitVec.getLsbD_append, BitVec.getLsbD_extractLsb']
  grind

theorem TlbHigh.toWord_ignored (p : TlbHigh) : p.toWord.extractLsb' 0 12 = p.ignored := by
  apply BitVec.eq_of_getLsbD_eq
  intro i hi
  simp only [TlbHigh.toWord, BitVec.getLsbD_append, BitVec.getLsbD_extractLsb']
  grind

/-! ## S[3] (R38) -/

theorem TlbLow.toWord_frame (p : TlbLow) : p.toWord.extractLsb' 12 20 = p.frame := by
  apply BitVec.eq_of_getLsbD_eq
  intro i hi
  simp only [TlbLow.toWord, BitVec.getLsbD_append, BitVec.getLsbD_extractLsb']
  grind

theorem TlbLow.toWord_ignored (p : TlbLow) : p.toWord.extractLsb' 2 10 = p.ignored := by
  apply BitVec.eq_of_getLsbD_eq
  intro i hi
  simp only [TlbLow.toWord, BitVec.getLsbD_append, BitVec.getLsbD_extractLsb']
  grind

theorem TlbLow.toWord_write (p : TlbLow) : p.toWord.getLsbD 1 = p.write := by
  simp only [TlbLow.toWord, BitVec.getLsbD_append]
  simp

theorem TlbLow.toWord_valid (p : TlbLow) : p.toWord.getLsbD 0 = p.valid := by
  simp only [TlbLow.toWord, BitVec.getLsbD_append]
  simp

end Sys2Proof.Machine
end

