-- ==== Sys2Proof/Machine/Image.lean ====
section
/-! DEFINITION. What the tool chain chapter fixes about the bytes of a program: sections, the directives that append to
them, offsets of labels, the executable file and the boot image (spec 30_encoding.md R141 to R150, R155;
70_reset_and_hazards.md R356). No step uses these; they say how a program's bytes come to stand in memory (log 1). -/

namespace Sys2Proof.Machine

/-- What one line of a program appends to the current section (R144, R149). -/
inductive Item where
  | instr (i : Instr)
  | byte (v : Byte)
  | half (v : Half)
  | word (v : Word)
  | space (n : Nat)
  | align (n : Nat)
  | locate (n : Nat)
deriving DecidableEq, Repr

/-- n zero bytes (R149). -/
def zeros (n : Nat) : List Byte := List.replicate n 0

/-- The two bytes of a half-word, big-endian (R149). -/
def bytesOfHalf (v : Half) : List Byte := [v.extractLsb' 8 8, v.extractLsb' 0 8]

/-- n is a power of 2 (R149). -/
def powerOfTwo (n : Nat) : Bool := decide (n ≠ 0) && decide (2 ^ Nat.log2 n = n)

/-- A section with one item appended. None for an `.align` whose argument is no power of 2 and a `.locate` below the
current position: the sources call the first undefined and say that the tool crashes on the second (R149, U3, U6). -/
def appendItem (bytes : List Byte) (item : Item) : Option (List Byte) :=
  match item with
  | .instr i => some (bytes ++ encodeBytes i)
  | .byte v => some (bytes ++ [v])
  | .half v => some (bytes ++ bytesOfHalf v)
  | .word v => some (bytes ++ bytesOfWord v)
  | .space n => some (bytes ++ zeros n)
  | .align n => if powerOfTwo n then some (bytes ++ zeros ((n - bytes.length % n) % n)) else none
  | .locate n => if bytes.length ≤ n then some (bytes ++ zeros (n - bytes.length)) else none

/-- A section with items appended in order (R142). -/
def appendItems (bytes : List Byte) (items : List Item) : Option (List Byte) :=
  match items with
  | [] => some bytes
  | item :: rest =>
    match appendItem bytes item with
    | some more => appendItems more rest
    | none => none

/-- The distance in words from the instruction after address a to a label (R147). What asld does at a distance that is no
multiple of 4 is not stated; the remainder is dropped: DESIGN CHOICE (log 38). -/
def labelDistance (a label : Word) : Word := (label - (a + 4)).sshiftRight 2

/-- The offset field of a branch at address a to a label (R147). What asld does with a label out of reach (R126) is not
stated; the upper bits are dropped: DESIGN CHOICE (log 38). -/
def branchOffset (a label : Word) : Half := (labelDistance a label).extractLsb' 0 16

/-- The offset field of J or JAL at address a to a label (R147); a label out of reach as for branches (log 38). -/
def jumpOffset (a label : Word) : BitVec 26 := (labelDistance a label).extractLsb' 0 26

/-- An assembled program: the bytes of code and data, and the size of the BSS (R142, R150). -/
structure Program where
  code : List Byte
  data : List Byte
  bss : Nat
deriving DecidableEq, Repr

/-- The next multiple of 4096. -/
def roundToPage (n : Nat) : Nat := (n + 4095) / 4096 * 4096

/-- The virtual start addresses of code, data and BSS: those given, or by default 0, the end of the code section rounded up
to a page boundary, and the end of the data section (R141). -/
def Program.starts (p : Program) (rc rd rb : Option Nat) : Nat × Nat × Nat :=
  let code := rc.getD 0
  let data := rd.getD (roundToPage (code + p.code.length))
  (code, data, rb.getD (data + p.data.length))

/-- The magic number of an executable file (R150). -/
def fileMagic : Word := 0x3AE82DD4

/-- The headerless binary: code, then data (R150). -/
def Program.headerless (p : Program) : List Byte := p.code ++ p.data

/-- The executable file: a header of four big-endian words, then code and data (R150). -/
def Program.file (p : Program) : List Byte :=
  bytesOfWord fileMagic ++ bytesOfWord (BitVec.ofNat 32 p.code.length) ++ bytesOfWord (BitVec.ofNat 32 p.data.length) ++
    bytesOfWord (BitVec.ofNat 32 p.bss) ++ p.headerless

/-- The program in an executable file; none if the magic number is wrong or bytes are missing (R150). Bytes that follow
code and data are ignored: DESIGN CHOICE, the case is not stated (log 38). -/
def readFile (bytes : List Byte) : Option Program :=
  match bytes with
  | m0 :: m1 :: m2 :: m3 :: c0 :: c1 :: c2 :: c3 :: d0 :: d1 :: d2 :: d3 :: b0 :: b1 :: b2 :: b3 :: body =>
    let code := (wordOfBytes c0 c1 c2 c3).toNat
    let data := (wordOfBytes d0 d1 d2 d3).toNat
    if wordOfBytes m0 m1 m2 m3 = fileMagic ∧ code + data ≤ body.length then
      some { code := body.take code, data := (body.drop code).take data, bss := (wordOfBytes b0 b1 b2 b3).toNat }
    else none
  | _ => none

/-- A program loaded at physical addresses: code, data, and a zeroed BSS (R150). -/
def loadProgram (s : State) (p : Program) (codeAt dataAt bssAt : Nat) : State :=
  s.setMem (Cells.putBytes (Cells.putBytes (Cells.putBytes s.mem codeAt p.code) dataAt p.data) bssAt (zeros p.bss))

/-- A boot image: byte k of a headerless binary is the byte at physical address 0x20000000 + k (R155, R356). -/
def loadBootImage (s : State) (image : List Byte) : State := s.setMem (Cells.putBytes s.mem 0x20000000 image)

end Sys2Proof.Machine
end

