-- ==== Sys2Proof/Machine/Assembler.lean ====
section
/-! DEFINITION. The assembler asld on lines in abstract form, and the C compiler's conventions (spec 30_encoding.md R140
to R154). No step uses these; they say which bytes a program written down in this notation has. Log 38. -/

namespace Sys2Proof.Machine

/-! ## Notation -/

/-- An operand: a register, a number, or the name of a label (R144, R146). -/
inductive Operand where
  | reg (r : Reg)
  | number (v : Word)
  | label (name : String)
deriving DecidableEq, Repr

/-- The number that a list of decimal digits denotes. -/
def decimal (digits : List Char) : Option Nat :=
  if digits.isEmpty then none
  else digits.foldl (fun n c => n.bind fun k => if c.isDigit then some (10 * k + (c.toNat - 48)) else none) (some 0)

/-- A register operand in text, a dollar sign and a number from 0 to 31 (R146). The grammar of numbers is in no source
(R144, N4): that it is decimal and may have leading zeros, as in `$007`, is a DESIGN CHOICE (log 38). -/
def parseRegister (text : List Char) : Option Reg :=
  match text with
  | '$' :: digits =>
    match decimal digits with
    | some n => if n < 32 then some (BitVec.ofNat 5 n) else none
    | none => none
  | _ => none

/-- The sections of a program; symbols that are not relocated belong to the absolute section (R142). -/
inductive Section where
  | code
  | data
  | bss
  | absolute
deriving DecidableEq, Repr

/-- The place a symbol stands for (R142). -/
structure Symbol where
  sec : Section
  index : Word
deriving DecidableEq, Repr

/-- One line of assembler input (R143, R144, R149). -/
inductive Line where
  | label (name : String)
  | op (mnemonic : String) (operands : List Operand)
  | item (i : Item)
  /-- `.word` of a symbol, a reference that is patched (R142). That `.word` may name a symbol, and that `.byte`, `.half` and
  immediate operands may not, is a DESIGN CHOICE: R149 gives only a value (log 38). -/
  | wordOf (name : String)
  | syn
  | nosyn
  | enter (s : Section)
  | exported (names : List String)
  | imported (names : List String)
  | set (name : String) (v : Word)
deriving DecidableEq, Repr

/-! ## Instructions -/

/-- The 15 mnemonics with a register form at an even opcode and an immediate form, with a final I, at the next (R130). -/
def pairedMnemonics : List String :=
  ["ADD", "SUB", "MUL", "MULU", "DIV", "DIVU", "REM", "REMU", "AND", "OR", "XOR", "XNOR", "SLL", "SLR", "SAR"]

/-- The ten branches, from opcode 0x20 on (R130). -/
def branchMnemonics : List String := ["BEQ", "BNE", "BLE", "BLEU", "BLT", "BLTU", "BGE", "BGEU", "BGT", "BGTU"]

/-- The loads and stores, from opcode 0x30 on (R130). -/
def accessMnemonics : List String := ["LDW", "LDH", "LDHU", "LDB", "LDBU", "STW", "STH", "STB"]

/-- The instructions without operands (R130). -/
def plainMnemonics : List (String × BitVec 6) :=
  [("TRAP", 0x2E), ("RFX", 0x2F), ("TBS", 0x3A), ("TBWR", 0x3B), ("TBRI", 0x3C), ("TBWI", 0x3D)]

/-- The opcode at a position of a list that starts at an opcode. -/
def opcodeFrom (base step : Nat) (names : List String) (name : String) : Option (BitVec 6) :=
  if name ∈ names then some (BitVec.ofNat 6 (base + step * names.idxOf name)) else none

/-- The word of an instruction at address a, operands in the order of R151: the destination first, then the sources; a
mnemonic with a register form takes a number as well (R145); a label becomes an offset (R147); a number gives its 16 low
bits (R133). None if the mnemonic or the operands do not fit. -/
def assembleWord (value : String → Option Word) (a : Word) (mnemonic : String) (operands : List Operand) : Option Word :=
  match operands with
  | [] => (plainMnemonics.lookup mnemonic).map encN
  | [.reg d] => if mnemonic = "JR" then some (encJR 0x2B d) else if mnemonic = "JALR" then some (encJR 0x2D d) else none
  | [.label l] =>
    (value l).bind fun v =>
      if mnemonic = "J" then some (encJ 0x2A (jumpOffset a v))
      else if mnemonic = "JAL" then some (encJ 0x2C (jumpOffset a v)) else none
  | [.reg r, .number n] =>
    if mnemonic = "LDHI" then some (encRRI 0x1F r 0 (n.extractLsb' 0 16))
    else if mnemonic = "MVFS" then some (encSR 0x38 r (n.extractLsb' 0 16))
    else if mnemonic = "MVTS" then some (encSR 0x39 r (n.extractLsb' 0 16)) else none
  | [.reg r, .reg x, .reg y] => (opcodeFrom 0 2 pairedMnemonics mnemonic).map fun op => encRRR op r x y
  | [.reg r, .reg x, .number n] =>
    match opcodeFrom 1 2 pairedMnemonics mnemonic with
    | some op => some (encRRI op r x (n.extractLsb' 0 16))
    | none =>
      match opcodeFrom 1 2 (pairedMnemonics.map (· ++ "I")) mnemonic with
      | some op => some (encRRI op r x (n.extractLsb' 0 16))
      | none => (opcodeFrom 0x30 1 accessMnemonics mnemonic).map fun op => encRRI op r x (n.extractLsb' 0 16)
  | [.reg x, .reg y, .label l] =>
    (value l).bind fun v => (opcodeFrom 0x20 1 branchMnemonics mnemonic).map fun op => encBR op x y (branchOffset a v)
  | _ => none

/-! ## Sections and symbols -/

/-- What a name of the local symbol table stands for: a symbol of this file, or a global one (R142, R149). -/
inductive LocalName where
  | defined (s : Symbol)
  | imported
deriving DecidableEq, Repr

/-- The state of the assembler within one file (R142). -/
structure Asm where
  here : Section
  code : List Byte
  data : List Byte
  bss : List Byte
  locals : List (String × LocalName)
  exports : List String
  /-- The control parameter of `.syn` and `.nosyn`; no synthesized instruction is listed anywhere (R148). -/
  synthesized : Bool
deriving DecidableEq, Repr

/-- The start addresses of code, data and BSS (R141). -/
abbrev Starts := Nat × Nat × Nat

/-- The bytes of a section so far. -/
def Asm.bytes (m : Asm) : Section → List Byte
  | .code => m.code
  | .data => m.data
  | .bss => m.bss
  | .absolute => []

/-- The assembler with the bytes of the current section replaced. -/
def Asm.withBytes (m : Asm) (b : List Byte) : Asm :=
  match m.here with
  | .code => { m with code := b }
  | .data => { m with data := b }
  | .bss => { m with bss := b }
  | .absolute => m

/-- The address at which a section starts (R141); 0 for the absolute section. -/
def Starts.of (st : Starts) : Section → Word
  | .code => BitVec.ofNat 32 st.1
  | .data => BitVec.ofNat 32 st.2.1
  | .bss => BitVec.ofNat 32 st.2.2
  | .absolute => 0

/-- The relocated position of a symbol (R142). -/
def Symbol.value (st : Starts) (s : Symbol) : Word := st.of s.sec + s.index

/-- Append an item to the current section. -/
def Asm.append (m : Asm) (i : Item) : Option Asm := (appendItem (m.bytes m.here) i).map m.withBytes

/-- The current location of the current section. -/
def Asm.location (m : Asm) : Symbol := { sec := m.here, index := BitVec.ofNat 32 (m.bytes m.here).length }

/-- One line (R143, R144, R149). -/
def Asm.line (value : String → Option Word) (st : Starts) (m : Asm) (l : Line) : Option Asm :=
  match l with
  | .label name => some { m with locals := m.locals ++ [(name, .defined m.location)] }
  | .op mnemonic operands =>
    (assembleWord value (m.location.value st) mnemonic operands).bind fun w => m.append (.word w)
  | .item i => m.append i
  | .wordOf name => (value name).bind fun v => m.append (.word v)
  | .syn => some { m with synthesized := true }
  | .nosyn => some { m with synthesized := false }
  | .enter s => some { m with here := s }
  | .exported names => some { m with exports := m.exports ++ names }
  | .imported names => some { m with locals := m.locals ++ names.map fun n => (n, .imported) }
  | .set name v => some { m with locals := m.locals ++ [(name, .defined { sec := .absolute, index := v })] }

/-- The lines of a file in order. -/
def Asm.lines (value : String → Option Word) (st : Starts) (m : Asm) : List Line → Option Asm
  | [] => some m
  | l :: rest => (m.line value st l).bind fun k => k.lines value st rest

/-- The assembler before the first file: all sections empty, the current section code (R142). Synthesized instructions
disabled is a DESIGN CHOICE: the default is in no source (R148, N3, log 38). -/
def Asm.start : Asm :=
  { here := .code, code := [], data := [], bss := [], locals := [], exports := [], synthesized := false }

/-- A file begins: the local symbol table is cleared and the current section is code (R142). Which "control parameters" are
reset is not stated; that `.syn` is among them is a DESIGN CHOICE (log 38). -/
def Asm.nextFile (m : Asm) : Asm := { m with here := .code, locals := [], exports := [], synthesized := false }

/-- The files in order, with the values of symbols that each is given: the assembler after each file. -/
def assembleFiles (st : Starts) (m : Asm) : List (List Line × (String → Option Word)) → Option (List Asm)
  | [] => some []
  | (lines, value) :: rest =>
    (m.nextFile.lines value st lines).bind fun k => (assembleFiles st k rest).map (k :: ·)

/-- The symbols that a file makes global (R149). A listed name that the file does not define itself is dropped: DESIGN CHOICE,
the case is not stated (log 38). -/
def Asm.globals (m : Asm) : List (String × Symbol) :=
  m.exports.filterMap fun name =>
    match m.locals.lookup name with
    | some (.defined s) => some (name, s)
    | _ => none

/-- The value of a name in a file, given the global symbols (R142). -/
def Asm.value (st : Starts) (globals : List (String × Symbol)) (m : Asm) (name : String) : Option Word :=
  match m.locals.lookup name with
  | some (.defined s) => some (s.value st)
  | some .imported => (globals.lookup name).map (Symbol.value st)
  | none => none

/-- Every imported name is a global symbol, else "an error occurs" (R149). -/
def Asm.importsFound (globals : List (String × Symbol)) (m : Asm) : Bool :=
  m.locals.all fun e => decide (e.2 ≠ .imported) || (globals.lookup e.1).isSome

/-- The program in the sections of the last file. -/
def programOf (l : List Asm) : Program :=
  match l.getLast? with
  | some m => { code := m.code, data := m.data, bss := m.bss.length }
  | none => { code := [], data := [], bss := 0 }

/-- An assembler run (R141, R142): a first pass finds the sections' sizes and the symbols, which do not depend on the values
of symbols; a second one has the values. The program, and the global symbol table that the map file lists. -/
def assemble (rc rd rb : Option Nat) (files : List (List Line)) : Option (Program × List (String × Word)) :=
  match assembleFiles (0, 0, 0) Asm.start (files.map fun f => (f, fun _ => some 0)) with
  | none => none
  | some first =>
    let st := (programOf first).starts rc rd rb
    let globals := first.flatMap Asm.globals
    if first.all (Asm.importsFound globals) then
      (assembleFiles st Asm.start ((files.zip first).map fun p => (p.1, p.2.value st globals))).map fun second =>
        (programOf second, globals.map fun g => (g.1, g.2.value st))
    else none

/-! ## The C compiler -/

/-- The C types whose sizes are given (R152). -/
inductive CType where
  | long
  | int
  | short
  | char
  | pointer
deriving DecidableEq, Repr

/-- The size of a C type in bits (R152). -/
def CType.bits : CType → Nat
  | .long => 32
  | .int => 32
  | .short => 16
  | .char => 8
  | .pointer => 32

/-- What the C compiler uses a register for (R153). -/
inductive RegisterUse where
  | zero
  | assembler
  | result
  | argument
  | callerSave
  | calleeSave
  | kernel
  | stackPointer
  | interruptReturn
  | returnAddress
deriving DecidableEq, Repr

/-- The table of R153, a convention that the hardware does not enforce. -/
def registerUse (r : Reg) : RegisterUse :=
  if r.toNat = 0 then .zero
  else if r.toNat = 1 then .assembler
  else if r.toNat ≤ 3 then .result
  else if r.toNat ≤ 7 then .argument
  else if r.toNat ≤ 15 then .callerSave
  else if r.toNat ≤ 23 then .calleeSave
  else if r.toNat ≤ 25 then .callerSave
  else if r.toNat ≤ 28 then .kernel
  else if r.toNat = 29 then .stackPointer
  else if r.toNat = 30 then .interruptReturn
  else .returnAddress

/-- The start of the code section of a program built with `-Wo-kernel` (R154). -/
def kernelCodeStart : Nat := 0xC0010000

end Sys2Proof.Machine
end

