-- ==== Sys2Proof/Tests/Slice0.lean ====
section
/-! SUPPORT. Tests. Expected values come from spec/95_test_vectors.md (V1 to V9), the encoding tables of spec/30_encoding.md
and the worked values of the rules named. The second half shows, for each statement with hypotheses, that they can be met,
at the boundaries of each clause. -/

namespace Sys2Proof.Tests

open Sys2Proof.Machine

/-! ## Decoding: one word for each instruction (V1; R122, R123, R130) -/

theorem test_decode_add : decodeWord 0x00221800 = .ok (.add 3 1 2) := by decide
theorem test_decode_addi : decodeWord 0x04238001 = .ok (.addi 3 1 0x8001) := by decide
theorem test_decode_sub : decodeWord 0x08221800 = .ok (.sub 3 1 2) := by decide
theorem test_decode_subi : decodeWord 0x0C238001 = .ok (.subi 3 1 0x8001) := by decide
theorem test_decode_mul : decodeWord 0x10221800 = .ok (.mul 3 1 2) := by decide
theorem test_decode_muli : decodeWord 0x14238001 = .ok (.muli 3 1 0x8001) := by decide
theorem test_decode_mulu : decodeWord 0x18221800 = .ok (.mulu 3 1 2) := by decide
theorem test_decode_mului : decodeWord 0x1C238001 = .ok (.mului 3 1 0x8001) := by decide
theorem test_decode_div : decodeWord 0x20221800 = .ok (.div 3 1 2) := by decide
theorem test_decode_divi : decodeWord 0x24238001 = .ok (.divi 3 1 0x8001) := by decide
theorem test_decode_divu : decodeWord 0x28221800 = .ok (.divu 3 1 2) := by decide
theorem test_decode_divui : decodeWord 0x2C238001 = .ok (.divui 3 1 0x8001) := by decide
theorem test_decode_rem : decodeWord 0x30221800 = .ok (.rem 3 1 2) := by decide
theorem test_decode_remi : decodeWord 0x34238001 = .ok (.remi 3 1 0x8001) := by decide
theorem test_decode_remu : decodeWord 0x38221800 = .ok (.remu 3 1 2) := by decide
theorem test_decode_remui : decodeWord 0x3C238001 = .ok (.remui 3 1 0x8001) := by decide
theorem test_decode_and : decodeWord 0x40221800 = .ok (.and 3 1 2) := by decide
theorem test_decode_andi : decodeWord 0x44238001 = .ok (.andi 3 1 0x8001) := by decide
theorem test_decode_or : decodeWord 0x48221800 = .ok (.or 3 1 2) := by decide
theorem test_decode_ori : decodeWord 0x4C238001 = .ok (.ori 3 1 0x8001) := by decide
theorem test_decode_xor : decodeWord 0x50221800 = .ok (.xor 3 1 2) := by decide
theorem test_decode_xori : decodeWord 0x54238001 = .ok (.xori 3 1 0x8001) := by decide
theorem test_decode_xnor : decodeWord 0x58221800 = .ok (.xnor 3 1 2) := by decide
theorem test_decode_xnori : decodeWord 0x5C238001 = .ok (.xnori 3 1 0x8001) := by decide
theorem test_decode_sll : decodeWord 0x60221800 = .ok (.sll 3 1 2) := by decide
theorem test_decode_slli : decodeWord 0x64238001 = .ok (.slli 3 1 0x8001) := by decide
theorem test_decode_slr : decodeWord 0x68221800 = .ok (.slr 3 1 2) := by decide
theorem test_decode_slri : decodeWord 0x6C238001 = .ok (.slri 3 1 0x8001) := by decide
theorem test_decode_sar : decodeWord 0x70221800 = .ok (.sar 3 1 2) := by decide
theorem test_decode_sari : decodeWord 0x74238001 = .ok (.sari 3 1 0x8001) := by decide
theorem test_decode_ldhi : decodeWord 0x7C038001 = .ok (.ldhi 3 0x8001) := by decide
theorem test_decode_beq : decodeWord 0x8022FFFE = .ok (.beq 1 2 0xFFFE) := by decide
theorem test_decode_bne : decodeWord 0x8422FFFE = .ok (.bne 1 2 0xFFFE) := by decide
theorem test_decode_ble : decodeWord 0x8822FFFE = .ok (.ble 1 2 0xFFFE) := by decide
theorem test_decode_bleu : decodeWord 0x8C22FFFE = .ok (.bleu 1 2 0xFFFE) := by decide
theorem test_decode_blt : decodeWord 0x9022FFFE = .ok (.blt 1 2 0xFFFE) := by decide
theorem test_decode_bltu : decodeWord 0x9422FFFE = .ok (.bltu 1 2 0xFFFE) := by decide
theorem test_decode_bge : decodeWord 0x9822FFFE = .ok (.bge 1 2 0xFFFE) := by decide
theorem test_decode_bgeu : decodeWord 0x9C22FFFE = .ok (.bgeu 1 2 0xFFFE) := by decide
theorem test_decode_bgt : decodeWord 0xA022FFFE = .ok (.bgt 1 2 0xFFFE) := by decide
theorem test_decode_bgtu : decodeWord 0xA422FFFE = .ok (.bgtu 1 2 0xFFFE) := by decide
theorem test_decode_j : decodeWord 0xAA000001 = .ok (.j 0x2000001) := by decide
theorem test_decode_jr : decodeWord 0xACA00000 = .ok (.jr 5) := by decide
theorem test_decode_jal : decodeWord 0xB2000001 = .ok (.jal 0x2000001) := by decide
theorem test_decode_jalr : decodeWord 0xB4A00000 = .ok (.jalr 5) := by decide
theorem test_decode_trap : decodeWord 0xB8000000 = .ok (.trap) := by decide
theorem test_decode_rfx : decodeWord 0xBC000000 = .ok (.rfx) := by decide
theorem test_decode_ldw : decodeWord 0xC0238001 = .ok (.ldw 3 1 0x8001) := by decide
theorem test_decode_ldh : decodeWord 0xC4238001 = .ok (.ldh 3 1 0x8001) := by decide
theorem test_decode_ldhu : decodeWord 0xC8238001 = .ok (.ldhu 3 1 0x8001) := by decide
theorem test_decode_ldb : decodeWord 0xCC238001 = .ok (.ldb 3 1 0x8001) := by decide
theorem test_decode_ldbu : decodeWord 0xD0238001 = .ok (.ldbu 3 1 0x8001) := by decide
theorem test_decode_stw : decodeWord 0xD4238001 = .ok (.stw 3 1 0x8001) := by decide
theorem test_decode_sth : decodeWord 0xD8238001 = .ok (.sth 3 1 0x8001) := by decide
theorem test_decode_stb : decodeWord 0xDC238001 = .ok (.stb 3 1 0x8001) := by decide
theorem test_decode_mvfs : decodeWord 0xE0030002 = .ok (.mvfs 3 2) := by decide
theorem test_decode_mvts : decodeWord 0xE4030002 = .ok (.mvts 3 2) := by decide
theorem test_decode_tbs : decodeWord 0xE8000000 = .ok (.tbs) := by decide
theorem test_decode_tbwr : decodeWord 0xEC000000 = .ok (.tbwr) := by decide
theorem test_decode_tbri : decodeWord 0xF0000000 = .ok (.tbri) := by decide
theorem test_decode_tbwi : decodeWord 0xF4000000 = .ok (.tbwi) := by decide

/-- V1's register-register word written out bit by bit: opcode 0x02, x = 1, y = 2, r = 3, ignored bits 0 (R122). -/
theorem test_decode_sub_bits :
    decodeWord (0b000010#6 ++ 0b00001#5 ++ 0b00010#5 ++ 0b00011#5 ++ 0#11) = .ok (.sub 3 1 2) := by decide

/-- The same for a layout with an immediate: opcode 0x31, x = 1, r = 3, y = 0x8001 (R122). -/
theorem test_decode_ldh_bits :
    decodeWord (0b110001#6 ++ 0b00001#5 ++ 0b00011#5 ++ 0b1000000000000001#16) = .ok (.ldh 3 1 0x8001) := by decide

/-- The same for a jump: opcode 0x2A, the most negative offset (R122, R126). -/
theorem test_decode_j_bits : decodeWord (0b101010#6 ++ 0b10000000000000000000000000#26) = .ok (.j 0x2000000) := by decide

/-- V2: the unassigned opcodes (R131). -/
theorem test_decode_unassigned :
    decodeWord 0x78000000 = .error (.unassignedOpcode 0x1E) ∧ decodeWord 0xF8000000 = .error (.unassignedOpcode 0x3E) ∧
      decodeWord 0xFC000000 = .error (.unassignedOpcode 0x3F) := by decide

/-- Bytes: the first byte is the most significant one (R121), and a short list is refused by name. -/
theorem test_decode_bytes :
    decode [0x00, 0x22, 0x18, 0x00, 0xAA] = .ok (.add 3 1 2, [0xAA]) ∧ decode [0x00, 0x22, 0x18] = .error .tooFewBytes := by
  decide

theorem test_decodeTableWord : decodeTableWord 32 0xD4238001 = some (.stw 3 1 0x8001) ∧
    decodeTableWord 32 0x78000000 = none := by decide

/-! ## Well-formedness (R27, R253, R254) -/

theorem test_mvfs_5_refused : WellFormed (.mvfs 3 5) = false := by decide
theorem test_mvts_5_refused : WellFormed (.mvts 3 5) = false := by decide
theorem test_mvfs_ffff_refused : WellFormed (.mvfs 0 0xFFFF) = false := by decide
theorem test_mvfs_4_accepted : WellFormed (.mvfs 3 4) = true ∧ WellFormed (.mvts 3 4) = true := by decide

/-! ## One step of each instruction -/

/-- The reset state with pc at a and the word w there. -/
def placed (a w : Word) : State := placeAtPc (State.reset.setPc a) w

/-- Registers 1, 2 and 3 of the vectors. -/
def withRegs (s : State) (a b : Word) : State := ((s.setReg 1 a).setReg 2 b).setReg 3 0x5555AAAA

/-- The step answers a next state with a property. -/
def steps (s : State) (p : State → Bool) : Bool :=
  match step s with
  | .next t => p t
  | .fault _ => false
  | .refused _ => false

/-- A computation of V3: register 3 takes v, the sources are kept, pc moves on. -/
def computes (w a b v : Word) : Bool :=
  steps (withRegs (placed 0xC0000100 w) a b) fun t =>
    t.reg 3 == v && t.reg 1 == a && t.reg 2 == b && t.pc == 0xC0000104 && t.psw == Psw.reset

/-- A fault of V3: register 3 is kept, the return address is the instruction's own. -/
def faults (w a b psw : Word) : Bool :=
  steps (withRegs (placed 0xC0000100 w) a b) fun t =>
    t.reg 3 == 0x5555AAAA && t.reg 30 == 0xC0000100 && t.psw.toWord == psw && t.pc == 0xE0000004

theorem test_add : computes 0x00221800 0x7FFFFFFF 0x00000001 0x80000000 = true := by decide
theorem test_addi : computes 0x0423FFFF 0x00000005 0x00000009 0x00000004 = true := by decide
theorem test_sub : computes 0x08221800 0x00000005 0x00000007 0xFFFFFFFE = true := by decide
theorem test_subi : computes 0x0C238000 0x7FFFFFFF 0x00000009 0x80007FFF = true := by decide
theorem test_mul : computes 0x10221800 0x00000007 0xFFFFFFFD 0xFFFFFFEB = true := by decide
theorem test_muli : computes 0x1423FFFD 0x00000007 0x00000009 0xFFFFFFEB = true := by decide
theorem test_mulu : computes 0x18221800 0x12345678 0x00000100 0x34567800 = true := by decide
theorem test_mului : computes 0x1C23FFFD 0x00000007 0x00000009 0x0006FFEB = true := by decide
theorem test_div : computes 0x20221800 0xFFFFFFF9 0x00000002 0xFFFFFFFD = true := by decide
/-- 0x80000000 divided by -1 (R173, D2). -/
theorem test_divi : computes 0x2423FFFF 0x80000000 0x00000009 0x80000000 = true := by decide
theorem test_divu : computes 0x28221800 0xFFFFFFFE 0x00000002 0x7FFFFFFF = true := by decide
theorem test_divui : computes 0x2C23FFFE 0xFFFFFFFE 0x00000009 0x00010002 = true := by decide
theorem test_rem : computes 0x30221800 0x00000007 0xFFFFFFFE 0x00000001 = true := by decide
theorem test_remi : computes 0x34230002 0xFFFFFFF9 0x00000009 0xFFFFFFFF = true := by decide
theorem test_remu : computes 0x38221800 0xFFFFFFFF 0x0000000A 0x00000005 = true := by decide
theorem test_remui : computes 0x3C23FFFF 0xFFFFFFFF 0x00000009 0x00000000 = true := by decide
theorem test_and : computes 0x40221800 0xF0F0F0F0 0xFF00FF00 0xF000F000 = true := by decide
theorem test_andi : computes 0x44238001 0xFFFFFFFF 0x00000009 0x00008001 = true := by decide
theorem test_or : computes 0x48221800 0xF0F0F0F0 0x0F0F0000 0xFFFFF0F0 = true := by decide
theorem test_ori : computes 0x4C238001 0x12340000 0x00000009 0x12348001 = true := by decide
theorem test_xor : computes 0x50221800 0xF0F0F0F0 0xFF00FF00 0x0FF00FF0 = true := by decide
theorem test_xori : computes 0x5423FFFF 0xFFFFFFFF 0x00000009 0xFFFF0000 = true := by decide
theorem test_xnor : computes 0x58221800 0xF0F0F0F0 0xFF00FF00 0xF00FF00F = true := by decide
theorem test_xnori : computes 0x5C23FFFF 0x00000000 0x00000009 0xFFFF0000 = true := by decide
theorem test_sll : computes 0x60221800 0x00000001 0xFFFFFFFF 0x80000000 = true := by decide
theorem test_slli : computes 0x64230024 0x12345678 0x00000009 0x23456780 = true := by decide
theorem test_slr : computes 0x68221800 0x80000000 0x00000020 0x80000000 = true := by decide
theorem test_slri : computes 0x6C230010 0x12345678 0x00000009 0x00001234 = true := by decide
theorem test_sar : computes 0x70221800 0x80000000 0x0000001F 0xFFFFFFFF = true := by decide
theorem test_sari : computes 0x74230008 0xFFFF0000 0x00000009 0xFFFFFF00 = true := by decide
theorem test_ldhi : computes 0x7C038001 0x00000000 0x00000009 0x80010000 = true := by decide
theorem test_div_by_zero : faults 0x20221800 0x00000007 0x00000000 0x00130000 = true := by decide
theorem test_divu_by_zero : faults 0x28221800 0x00000007 0x00000000 0x00130000 = true := by decide
theorem test_rem_by_zero : faults 0x30221800 0x00000007 0x00000000 0x00130000 = true := by decide
theorem test_remu_by_zero : faults 0x38221800 0x00000007 0x00000000 0x00130000 = true := by decide
theorem test_divi_by_zero : faults 0x24230000 0x00000064 0x00000009 0x00130000 = true := by decide
theorem test_divui_by_zero : faults 0x2C230000 0x00000064 0x00000009 0x00130000 = true := by decide
theorem test_remi_by_zero : faults 0x34230000 0x00000064 0x00000009 0x00130000 = true := by decide
theorem test_remui_by_zero : faults 0x3C230000 0x00000064 0x00000009 0x00130000 = true := by decide

/-- A branch of V4 at 0xC0001000 with offset 3 goes to 0xC0001010 or on to 0xC0001004. -/
def goes (w a b target : Word) : Bool :=
  steps (withRegs (placed 0xC0001000 w) a b) fun t => t.pc == target && t.reg 31 == 0 && t.reg 1 == a && t.reg 2 == b

theorem test_beq_same : goes 0x80220003 0x00000005 0x00000005 0xC0001010 = true := by decide
theorem test_beq_signs : goes 0x80220003 0xFFFFFFFF 0x00000001 0xC0001004 = true := by decide
theorem test_bne_same : goes 0x84220003 0x00000005 0x00000005 0xC0001004 = true := by decide
theorem test_bne_signs : goes 0x84220003 0xFFFFFFFF 0x00000001 0xC0001010 = true := by decide
theorem test_ble_same : goes 0x88220003 0x00000005 0x00000005 0xC0001010 = true := by decide
theorem test_ble_signs : goes 0x88220003 0xFFFFFFFF 0x00000001 0xC0001010 = true := by decide
theorem test_bleu_same : goes 0x8C220003 0x00000005 0x00000005 0xC0001010 = true := by decide
theorem test_bleu_signs : goes 0x8C220003 0xFFFFFFFF 0x00000001 0xC0001004 = true := by decide
theorem test_blt_same : goes 0x90220003 0x00000005 0x00000005 0xC0001004 = true := by decide
theorem test_blt_signs : goes 0x90220003 0xFFFFFFFF 0x00000001 0xC0001010 = true := by decide
theorem test_bltu_same : goes 0x94220003 0x00000005 0x00000005 0xC0001004 = true := by decide
theorem test_bltu_signs : goes 0x94220003 0xFFFFFFFF 0x00000001 0xC0001004 = true := by decide
theorem test_bge_same : goes 0x98220003 0x00000005 0x00000005 0xC0001010 = true := by decide
theorem test_bge_signs : goes 0x98220003 0xFFFFFFFF 0x00000001 0xC0001004 = true := by decide
theorem test_bgeu_same : goes 0x9C220003 0x00000005 0x00000005 0xC0001010 = true := by decide
theorem test_bgeu_signs : goes 0x9C220003 0xFFFFFFFF 0x00000001 0xC0001010 = true := by decide
theorem test_bgt_same : goes 0xA0220003 0x00000005 0x00000005 0xC0001004 = true := by decide
theorem test_bgt_signs : goes 0xA0220003 0xFFFFFFFF 0x00000001 0xC0001004 = true := by decide
theorem test_bgtu_same : goes 0xA4220003 0x00000005 0x00000005 0xC0001004 = true := by decide
theorem test_bgtu_signs : goes 0xA4220003 0xFFFFFFFF 0x00000001 0xC0001010 = true := by decide

theorem test_j_back : goes 0xABFFFFFF 1 2 0xC0001000 = true := by decide
theorem test_j_far : goes 0xAA000000 1 2 0xB8001004 = true := by decide
theorem test_jal : steps (placed 0xC0001000 0xB0000010) (fun t => t.pc == 0xC0001044 && t.reg 31 == 0xC0001004) = true := by
  decide
/-- JR copies all 32 bits (R216); the target 0xC0002002 faults at the next fetch only. -/
theorem test_jr : steps ((placed 0xC0001000 0xACA00000).setReg 5 0xC0002002) (fun t => t.pc == 0xC0002002) = true := by decide
theorem test_jalr : steps ((placed 0xC0001000 0xB4A00000).setReg 5 0xC0002000)
    (fun t => t.pc == 0xC0002000 && t.reg 31 == 0xC0001004) = true := by decide
/-- V4: JALR of x[31] reads the target before the link is written (R214). -/
theorem test_jalr_31 : steps ((placed 0xC0001000 0xB7E00000).setReg 31 0xC0003000)
    (fun t => t.pc == 0xC0003000 && t.reg 31 == 0xC0001004) = true := by decide

/-- V5: the words 0x807FFF01 and 0x12345678 at physical 0x1000. -/
def atData (w base v : Word) : State :=
  let s := placed 0xC0000100 w
  ((s.setMem (Cells.putWord (Cells.putWord s.mem 0x1000 0x807FFF01) 0x1004 0x12345678)).setReg 1 base).setReg 3 v

/-- A load of V5. -/
def loads (w v : Word) : Bool :=
  steps (atData w 0xC0001000 0x77) fun t => t.reg 3 == v && t.pc == 0xC0000104 && t.reg 1 == 0xC0001000

/-- An Illegal Address Fault of V5. -/
def misalignedAt (w bad : Word) : Bool :=
  steps (atData w 0xC0001000 0x77) fun t =>
    t.reg 3 == 0x77 && t.psw.toWord == 0x00180000 && t.reg 30 == 0xC0000100 && t.pc == 0xE0000004 && t.tlbBad == bad

theorem test_ldw : loads 0xC0230004 0x12345678 = true := by decide
theorem test_ldw_misaligned : misalignedAt 0xC0230002 0xC0001002 = true := by decide
theorem test_ldh : loads 0xC4230000 0xFFFF807F = true := by decide
theorem test_ldh_misaligned : misalignedAt 0xC4230001 0xC0001001 = true := by decide
theorem test_ldhu : loads 0xC8230002 0x0000FF01 = true := by decide
theorem test_ldb : loads 0xCC230000 0xFFFFFF80 = true := by decide
theorem test_ldbu : loads 0xD0230007 0x00000078 = true := by decide

/-- A store of V5: the eight bytes after it. -/
def stores (w : Word) (bytes : List Byte) : Bool :=
  steps (atData w 0xC0001000 0xA1B2C3D4) fun t => Cells.bytes t.mem 0x1000 8 == bytes && t.pc == 0xC0000104

theorem test_stw : stores 0xD4230004 [0x80, 0x7F, 0xFF, 0x01, 0xA1, 0xB2, 0xC3, 0xD4] = true := by decide
theorem test_sth : stores 0xD8230002 [0x80, 0x7F, 0xC3, 0xD4, 0x12, 0x34, 0x56, 0x78] = true := by decide
theorem test_stb : stores 0xDC230001 [0x80, 0xD4, 0xFF, 0x01, 0x12, 0x34, 0x56, 0x78] = true := by decide
theorem test_stw_misaligned : misalignedAt 0xD4230001 0xC0001001 = true := by decide

/-- V7: an instruction at 0xC0000100 with a given PSW. -/
def system (w psw : Word) : State := (placed 0xC0000100 w).setPsw (Psw.ofWord psw 0)

/-- The TLB of V6: pages 2 (writable), 3 (not writable) and 4 (invalid), every other entry blanked. -/
def mapped : State :=
  { State.reset with tlb := Vector.ofFn fun k =>
      if k = 4 then { page := 2, frame := 0x10, write := true, valid := true }
      else if k = 5 then { page := 3, frame := 0x11, write := false, valid := true }
      else if k = 6 then { page := 4, frame := 0x12, write := true, valid := false }
      else { page := 0xC0000#20 + BitVec.ofNat 20 k.val, frame := 0, write := false, valid := false } }

/-- The same in User Mode. -/
def mappedUser : State := { mapped with psw := { Psw.reset with uc := true } }

/-- The same with an instruction at virtual 0x2100, physical 0x10100, and V = 1 (V6). -/
def userAt (w x1 : Word) : State :=
  (((mapped.setMem (Cells.putWord (Cells.putWord [] 0x10100 w) 0x11800 0x22222222)).setPc 0x2100).setPsw
    (Psw.ofWord 0x0C000000 0)).setReg 1 x1

theorem test_trap : steps (system 0xB8000000 0x08800001)
    (fun t => t.psw.toWord == 0x08540001 && t.reg 30 == 0xC0000100 && t.pc == 0xC0000004) = true := by decide
theorem test_rfx : steps ((system 0xBC000000 0x0A540001).setReg 30 0x00002104)
    (fun t => t.psw.toWord == 0x0C940001 && t.pc == 0x00002104) = true := by decide
theorem test_rfx_keeps_old : steps ((system 0xBC000000 0x0BF5FFFF).setReg 30 0x00002104)
    (fun t => t.psw.toWord == 0x0FF5FFFF) = true := by decide
theorem test_mvfs : steps (system 0xE0030000 0x00150000) (fun t => t.reg 3 == 0x00150000) = true := by decide
theorem test_mvfs_z5 : steps (system 0xE0030005 0)
    (fun t => t.psw.toWord == 0x00110000 && t.reg 30 == 0xC0000100 && t.pc == 0xE0000004) = true := by decide
theorem test_mvts_psw : steps ((system 0xE4030000 0).setReg 3 0x08804000)
    (fun t => t.psw.v && t.psw.ic && !t.psw.uc && t.psw.ien == 0x4000 && t.pc == 0xC0000104) = true := by decide
/-- V7: page 0x00005 in entry 7 alone, not valid. -/
theorem test_tbs : steps ((({ system 0xE8000000 0 with tlb := mapped.tlb }).setEntry 7 ⟨5, 0, false, false⟩).setHigh ⟨5, 0xABC⟩)
    (fun t => t.tlbIndex.toWord == 7) = true := by decide
theorem test_tbs_miss : steps (({ system 0xE8000000 0 with tlb := mapped.tlb }).setHigh ⟨5, 0xABC⟩)
    (fun t => t.tlbIndex.toWord == 0x80000000) = true := by decide
theorem test_tbwi : steps ((((system 0xF4000000 0).setIndex ⟨false, 1, 7⟩).setHigh ⟨5, 0xFFF⟩).setLow ⟨0x123, 0x3FF, true, false⟩)
    (fun t => t.entry 7 == ⟨5, 0x123, true, false⟩ && t.entry 6 == State.reset.entry 6) = true := by decide
theorem test_tbri : steps (((system 0xF0000000 0).setIndex ⟨true, 0, 7⟩).setEntry 7 ⟨5, 0x123, true, false⟩)
    (fun t => t.tlbHigh.page == 5 && t.tlbLow.frame == 0x123 && t.tlbLow.write && !t.tlbLow.valid) = true := by decide
/-- TBWR: which entry it writes is a free value; the registers are kept (R256). -/
theorem test_tbwr : steps ((system 0xEC000000 0).setHigh ⟨5, 0⟩)
    (fun t => t.tlbHigh == ⟨5, 0⟩ && t.rng == 1 && t.pc == 0xC0000104) = true := by decide
/-- V7: a privileged instruction in User Mode. -/
def userFaults (w : Word) : Bool :=
  steps (userAt w 0) fun t => t.psw.toWord == 0x0A120000 && t.reg 30 == 0x00002100 && t.pc == 0xC0000004

theorem test_privileged_mvts_z5 : userFaults 0xE4030005 = true := by decide
theorem test_privileged_tbwr : userFaults 0xEC000000 = true := by decide
theorem test_privileged_tbri : userFaults 0xF0000000 = true := by decide
theorem test_privileged_tbwi : userFaults 0xF4000000 = true := by decide

/-! ## Exceptions, translation and the loop (V6, V8, V9) -/

/-- V6: a User Space TLB Miss goes to offset 8, and S[4] is written. -/
theorem test_user_miss : steps (userAt 0xC0230000 0x00005000)
    (fun t => t.psw.toWord == 0x0A150000 && t.reg 30 == 0x2100 && t.pc == 0xC0000008 && t.tlbBad == 0x00005000 &&
      t.tlbHigh.page == 5) = true := by decide
theorem test_user_read_of_page_3 : steps (userAt 0xC0230800 0x00003000) (fun t => t.reg 3 == 0x22222222) = true := by decide
theorem test_user_write_of_page_3 : steps (userAt 0xD4220800 0x00003000)
    (fun t => t.psw.toWord == 0x0A160000 && t.pc == 0xC0000004 && t.tlbBad == 0x00003800) = true := by decide
theorem test_user_invalid : steps (userAt 0xC0230800 0x00004000)
    (fun t => t.psw.toWord == 0x0A170000 && t.tlbBad == 0x00004800) = true := by decide
theorem test_user_privileged_address : steps (userAt 0xC0230000 0xC0000000)
    (fun t => t.psw.toWord == 0x0A190000 && t.tlbBad == 0xC0000000) = true := by decide
theorem test_bus_timeout : steps ((placed 0xC0000100 0xC0230000).setReg 1 0xC2000000)
    (fun t => t.psw.toWord == 0x00100000 && t.reg 30 == 0xC0000100 && t.tlbBad == 0) = true := by decide
/-- V8. -/
theorem test_accept_v8 :
    ((Psw.ofWord 0x0FF5FFFF 0).accepted .illegalInstruction).toWord = 0x0B71FFFF ∧
    ((Psw.ofWord 0x0A55FFFF 0).accepted (.tlbMiss 0x1000)).toWord = 0x0935FFFF ∧
    serviceAddress true (.tlbMiss 0x1000) = 0xC0000008 ∧ serviceAddress false (.tlbMiss 0x80001000) = 0xE0000004 := by
  decide

/-- A state whose line 0 is driven from outside the device list. -/
def line0 (psw : Word) : State :=
  let s := system 0x00000000 psw
  { s with cfg := { s.cfg with otherIrq := 1 }, extIrq := 1 }

/-- V9: PSW 0x00800001 and irq[0]. -/
theorem test_interrupt : steps (line0 0x00800001)
    (fun t => t.psw.toWord == 0x00400001 && t.pc == 0xE0000004 && t.reg 30 == 0xC0000104) = true := by decide
theorem test_interrupt_masked : steps (line0 0x00800002) (fun t => t.pc == 0xC0000104 && t.reg 30 == 0) = true := by decide

/-! ## Devices -/

/-- Turns with the events given. -/
def withEvents (s : State) (before : List Event) : State := s.setInputs [{ reset := false, before := before, after := [] }]

/-- R331: the timer's divisor reads back; R330: the counter wraps after as many clocks as it holds. -/
theorem test_timer : steps ((placed 0xC0000100 0xC0230004).setReg 1 0xF0000000 |>.setDev
      { Devices.reset with timer := { Timer.reset with divisor := 0x1234 } }) (fun t => t.reg 3 == 0x1234) = true := by decide
theorem test_timer_counts :
    (({ Timer.reset with counter := 3, divisor := 9 }).clocks 2).counter = 1 ∧
    ({ Timer.reset with counter := 3, divisor := 9 }).clocks 3 = { Timer.reset with counter := 9, divisor := 9, wrap := true } := by
  decide
/-- R333, R334: a key arrives before the fetch; reading the data register resets Ready. -/
theorem test_keyboard : steps ((withEvents (placed 0xC0000100 0xC0230004) [.key 0x5A]).setReg 1 0xF0200000)
    (fun t => t.dev.keyboard.data == 0x5A && !t.dev.keyboard.ready) = true := by decide
/-- R335: a character sent on terminal 2. -/
theorem test_sender : steps (((placed 0xC0000100 0xD423001C).setReg 1 0xF0300000).setReg 3 0x41)
    (fun t => t.dev.term2.sent == [0x41] && t.dev.term1.sent == []) = true := by decide
/-- R332: line 31, column 127 is the last cell. -/
theorem test_display : steps (((placed 0xC0000100 0xD4230000).setReg 1 0xF0103FFC).setReg 3 0x00010741)
    (fun t => t.dev.display == [(4095, 0x0741)]) = true := by decide

/-! ## Bytes of a program (R147, R149, R150) -/

theorem test_image_align : appendItems [] [.byte 1, .align 4, .word 0x01020304, .half 0xAABB] =
    some [1, 0, 0, 0, 1, 2, 3, 4, 0xAA, 0xBB] ∧ appendItem [1, 2] (.locate 1) = none := by decide
theorem test_image_branch : branchOffset 0xC0001000 0xC0001010 = 3 ∧ jumpOffset 0xC0001000 0xC0001000 = 0x3FFFFFF := by decide
theorem test_image_file : readFile ({ code := [1, 2, 3, 4], data := [5], bss := 7 } : Program).file =
    some { code := [1, 2, 3, 4], data := [5], bss := 7 } := by decide

/-! ## The assembler (R145, R147, R149; the words are those of the examples of R164, R165, R203 and R215) -/

theorem test_asm_word :
    assembleWord (fun _ => none) 0 "ADD" [.reg 3, .reg 1, .reg 2] = some 0x00221800 ∧
    assembleWord (fun _ => none) 0 "ADD" [.reg 3, .reg 1, .number 0xFFFFFFFF] = some 0x0423FFFF ∧
    assembleWord (fun _ => none) 0 "ADDI" [.reg 3, .reg 1, .number 0xFFFFFFFF] = some 0x0423FFFF ∧
    assembleWord (fun _ => none) 0 "STW" [.reg 3, .reg 1, .number 8] = some 0xD4230008 := by decide
theorem test_asm_label :
    assembleWord (fun _ => some 0xC0001010) 0xC0001000 "BEQ" [.reg 1, .reg 2, .label "L"] = some 0x80220003 ∧
    assembleWord (fun _ => some 0xC0001000) 0xC0001000 "J" [.label "L"] = some 0xABFFFFFF ∧
    parseRegister ['$', '3', '1'] = some 31 ∧ parseRegister ['$', '3', '2'] = none := by decide

/-- A forward and a backward reference over two files, one symbol global; the data section starts at the next page. -/
theorem test_asm_run :
    (assemble none none none
      [[.imported ["there"], .label "top", .op "J" [.label "top"], .wordOf "there"],
       [.enter .data, .exported ["there"], .item (.byte 7), .label "there"]]).map (fun p => (p.1.code, p.1.data, p.2)) =
    some ([0xAB, 0xFF, 0xFF, 0xFF, 0, 0, 0x10, 0x01], [7], [("there", 0x1001)]) := by decide

/-! ## The hypotheses of the statements can be met

One theorem for each statement that has hypotheses, named after it; a part for each clause, at the ends of its range. -/

theorem next_of_steps {s : State} {p : State → Bool} (h : steps s p = true) : ∃ t, step s = .next t ∧ p t = true := by
  unfold steps at h
  split at h
  · exact ⟨_, ‹_›, h⟩
  · cases h
  · cases h

theorem witness_DecodedWordKeepsAllButIgnoredBits :
    decodeWord 0x0022_1FFF = .ok (.add 3 1 2) ∧ decodeWord 0xBBFF_FFFF = .ok .trap := by decide

theorem witness_IgnoredBitsHaveNoEffect :
    (0x00221800#32 &&& careMask (opcodeOf 0x00221800#32) = 0x00221FFF#32 &&& careMask (opcodeOf 0x00221FFF#32)) ∧
    opcodeOf 0xE0030005 = opcodeOf 0xE3FFFFFF ∧ (31#16).toNat % 32 = (0xFFFF#16).toNat % 32 := by decide

theorem witness_InvalidEncodingsTakeIllegalInstruction :
    (∀ w : Word, w = 0x78000000 ∨ w = 0xF8000000 ∨ w = 0xFC000000 →
      (opcodeOf w).toNat ∈ [0x1E, 0x3E, 0x3F] ∧ ∃ u, fetch (placed 0xE0000000 w) = .done w u) ∧
    WellFormed (.mvfs 1 5) = false ∧ WellFormed (.mvts 1 0xFFFF) = false ∧
    (opcodeOf 0x74000000).toNat = 0x1D ∧ (opcodeOf 0x7C000000).toNat = 0x1F ∧ (opcodeOf 0xF4000000).toNat = 0x3D ∧
    (∃ u v, (placed 0xE0000000 0xFC000000).turnInput.reset = false ∧
      u = applyEvents (placed 0xE0000000 0xFC000000).turnInput.before (beginTurn (placed 0xE0000000 0xFC000000)) ∧
      fetch u = .done 0xFC000000 v) := by
  refine ⟨?_, by decide, by decide, by decide, by decide, by decide, ⟨_, _, rfl, rfl, rfl⟩⟩
  rintro w (rfl | rfl | rfl)
  · exact ⟨by decide, _, rfl⟩
  · exact ⟨by decide, _, rfl⟩
  · exact ⟨by decide, _, rfl⟩

theorem witness_StoredBytesAreSeenAtEveryWidth :
    Memory.wf [] = true ∧ Memory.wf [(0, 1), (4, 2), (0x1FFFFFFF, 3)] = true ∧ Memory.wf [(0, 0)] = false ∧
    ((3 : Nat) < 4 ∨ 4 + Width.word.bytes ≤ 3) ∧ ((8 : Nat) < 4 ∨ 4 + Width.word.bytes ≤ 8) := by decide

theorem witness_NothingAnswersAboveTheMap :
    0x40000000 ≤ (0x40000000#32).toNat ∧ 0x40000000 ≤ (0xFFFFFFFF#32).toNat := by decide

theorem witness_DirectMappingSubtractsTheBase :
    0xC0000000 ≤ (0xC0000000#32).toNat ∧ 0xC0000000 ≤ (0xFFFFFFFF#32).toNat := by decide

theorem mapped_entry_4 : OnlyEntry mapped (pageOf 0x2FFF) 4 ∧ (mapped.entry 4).valid = true ∧ (mapped.entry 4).write = true := by
  decide
theorem mapped_entry_5 : OnlyEntry mapped (pageOf 0x3000) 5 ∧ (mapped.entry 5).valid = true ∧ (mapped.entry 5).write = false := by
  decide
theorem mapped_entry_6 : OnlyEntry mapped (pageOf 0x4000) 6 ∧ (mapped.entry 6).valid = false := by decide
theorem mapped_no_entry : NoEntry mapped (pageOf 0x1FFF) ∧ NoEntry mapped (pageOf 0xBFFFFFFF) := by decide

theorem witness_TranslationFollowsTheTlb :
    (∀ va : Word, va = 0x1FFF ∨ va = 0xBFFFFFFF → va.toNat < 0xC0000000 ∧ NoEntry mapped (pageOf va)) ∧
    (0x4000#32).toNat < 0xC0000000 ∧ OnlyEntry mapped (pageOf 0x4000) 6 ∧
    OnlyEntry mapped (pageOf 0x3000) 5 ∧ OnlyEntry mapped (pageOf 0x2FFF) 4 := by
  refine ⟨?_, by decide, mapped_entry_6.1, mapped_entry_5.1, mapped_entry_4.1⟩
  rintro va (rfl | rfl)
  · exact ⟨by decide, mapped_no_entry.1⟩
  · exact ⟨by decide, mapped_no_entry.2⟩

theorem witness_DuplicatePagesGiveSomeMapping :
    (0x00000FFF#32).toNat < 0xC0000000 ∧ (0#5) ≠ 31#5 ∧ (State.reset.entry 0).page = pageOf 0xFFF ∧
    (State.reset.entry 31).page = pageOf 0xFFF := by decide

theorem user_no_entry : NoEntry mappedUser (pageOf 0x1FFF) := by decide
theorem user_entry_6 : OnlyEntry mappedUser (pageOf 0x4000) 6 ∧ (mappedUser.entry 6).valid = false := by decide
theorem user_entry_5 :
    OnlyEntry mappedUser (pageOf 0x3FFC) 5 ∧ (mappedUser.entry 5).valid = true ∧ (mappedUser.entry 5).write = false := by decide
theorem user_entry_4 :
    OnlyEntry mappedUser (pageOf 0x2000) 4 ∧ (mappedUser.entry 4).valid = true ∧ (mappedUser.entry 4).write = true := by decide

theorem fails_misaligned : FailsWith mappedUser 0x80000002 .word false (.illegalAddress 0x80000002) :=
  .inl ⟨by decide, rfl⟩
theorem fails_privileged : FailsWith mappedUser 0x80000000 .word false (.privilegedAddress 0x80000000) :=
  .inr (.inl ⟨by decide, by decide, rfl⟩)
theorem fails_miss : FailsWith mappedUser 0x00001FFF .byte false (.tlbMiss 0x00001FFF) :=
  .inr (.inr (.inl ⟨by decide, by decide, by decide, user_no_entry, rfl⟩))
theorem fails_invalid (isWrite : Bool) : FailsWith mappedUser 0x00004000 .half isWrite (.tlbInvalid 0x00004000) :=
  .inr (.inr (.inr ⟨by decide, by decide, by decide, 6, user_entry_6.1, .inl ⟨user_entry_6.2, rfl⟩⟩))
theorem fails_write : FailsWith mappedUser 0x00003FFC .word true (.tlbWrite 0x00003FFC) :=
  .inr (.inr (.inr ⟨by decide, by decide, by decide, 5, user_entry_5.1, .inr ⟨user_entry_5.2.1, rfl, user_entry_5.2.2, rfl⟩⟩))

/-- A page-mapped access that succeeds. -/
theorem goes_mapped : GoesTo mappedUser 0x00002000 .word true 0x00010000 :=
  ⟨by decide, by decide, .inr ⟨by decide, 4, user_entry_4.1, user_entry_4.2.1, fun _ => user_entry_4.2.2, by decide⟩⟩

/-- A direct-mapped access of the reset state. -/
theorem goes_direct {va pa : Word} {w : Width} (isWrite : Bool) (ha : Aligned va w) (hv : 0xC0000000 ≤ va.toNat)
    (hp : pa = va - 0xC0000000#32) : GoesTo State.reset va w isWrite pa :=
  ⟨ha, fun h => absurd h (by decide), .inl ⟨hv, hp⟩⟩

/-- The first address above the RAM of 32 MB, and the last below the ROM. -/
theorem goes_nowhere : GoesTo State.reset 0xC2000000 .word true 0x02000000 ∧ select State.reset.cfg 0x02000000 = .nothing ∧
    GoesTo State.reset 0xDFFFFFFF .byte false 0x1FFFFFFF ∧ select State.reset.cfg 0x1FFFFFFF = .nothing :=
  ⟨goes_direct true (by decide) (by decide) (by decide), by decide, goes_direct false (by decide) (by decide) (by decide),
    by decide⟩

theorem witness_ChecksAreMadeInOrder :
    FailsWith mappedUser 0x80000002 .word false (.illegalAddress 0x80000002) ∧
    FailsWith mappedUser 0x80000000 .word false (.privilegedAddress 0x80000000) ∧
    FailsWith mappedUser 0x00001FFF .byte false (.tlbMiss 0x00001FFF) ∧
    FailsWith mappedUser 0x00004000 .half true (.tlbInvalid 0x00004000) ∧
    FailsWith mappedUser 0x00003FFC .word true (.tlbWrite 0x00003FFC) ∧
    GoesTo State.reset 0xDFFFFFFF .byte false 0x1FFFFFFF ∧ GoesTo State.reset 0xC2000000 .word true 0x02000000 ∧
    select State.reset.cfg 0x02000000 = .nothing ∧ select State.reset.cfg 0x1FFFFFFF = .nothing :=
  ⟨fails_misaligned, fails_privileged, fails_miss, fails_invalid true, fails_write, goes_nowhere.2.2.1, goes_nowhere.1,
    goes_nowhere.2.1, goes_nowhere.2.2.2⟩

theorem witness_TwoReturnsUndoTwoExceptions :
    ∃ t u, exec .rfx (raise (.tlbMiss 0x1000) 0xC0000008 (raise .trap 0x2100 mappedUser)) = .next t ∧ exec .rfx t = .next u :=
  ⟨_, _, rfl, rfl⟩

/-- -7 by 2 with both roundings, and 0x80000000 by -1. -/
theorem witness_SignedDivisionGivesQuotientAndRemainder :
    ((-7 : Int) = -3 * 2 + -1 ∧ (-1 : Int).natAbs < (2 : Int).natAbs ∧ 0 ≤ (-7 : Int) * -1) ∧
    ((-7 : Int) = -4 * 2 + 1 ∧ (1 : Int).natAbs < (2 : Int).natAbs ∧ 0 ≤ (2 : Int) * 1) ∧
    ((-2147483648 : Int) = 2147483648 * -1 + 0 ∧ (0 : Int).natAbs < (-1 : Int).natAbs ∧ 0 ≤ (-2147483648 : Int) * 0) ∧
    ((State.reset.setReg 1 0xFFFFFFF9).reg 1).toInt = -7 ∧ ((State.reset.setReg 1 0x80000000).reg 1).toInt = -2147483648 ∧
    ((State.reset.setReg 2 2).reg 2).toInt = 2 ∧ (0xFFFF#16).toInt = -1 ∧ (2#16).toInt = 2 ∧
    State.reset.cfg.sdivRounding = .trunc ∧
    ({ State.reset with cfg := { Config.demo with sdivRounding := .floor } } : State).cfg.sdivRounding = .floor := by decide

theorem witness_UnsignedDivisionGivesQuotientAndRemainder :
    ((State.reset.setReg 1 0xFFFFFFFF).reg 1).toNat = 65537 * 65535 + 0 ∧ (0 : Nat) < 65535 ∧ (0xFFFF#16).toNat = 65535 ∧
    ((State.reset.setReg 2 65535).reg 2).toNat = 65535 := by decide

theorem witness_DivisionByZeroFaults : State.reset.reg 0 = 0 ∧ State.reset.reg 31 = 0 := by decide

theorem witness_LogicIsBitwise : (0 : Nat) < 32 ∧ 31 < 32 := by decide

theorem witness_ShiftsMoveBitsByTheLowFiveBits : (0 : Nat) < 32 ∧ 31 < 32 ∧ (0xFFFFFFFF#32).toNat % 32 = 31 := by decide

theorem witness_LdhiAndOriBuildEveryConstant : (1 : Reg) ≠ 0#5 ∧ (31 : Reg) ≠ 0#5 := by decide

/-- The reset state with a base address in register 1. -/
def based (a : Word) : State := State.reset.setReg 1 a

theorem based_goes {a va pa : Word} {w : Width} (isWrite : Bool) (ha : Aligned va w) (hv : 0xC0000000 ≤ va.toNat)
    (hp : pa = va - 0xC0000000#32) (hu : (based a).psw.uc = false) : GoesTo (based a) va w isWrite pa :=
  ⟨ha, fun h => absurd h (by rw [hu]; decide), .inl ⟨hv, hp⟩⟩

/-- The first and last word of RAM, the first and last byte of ROM. -/
theorem witness_LoadsReadMemory :
    (InMemory (based 0xC0000000) 0 ∧ GoesTo (based 0xC0000000) (dataAddress 1 0 (based 0xC0000000)) .word false 0) ∧
    (InMemory (based 0xC2000000) 0x01FFFFFC ∧
      GoesTo (based 0xC2000000) (dataAddress 1 0xFFFC (based 0xC2000000)) .word false 0x01FFFFFC) ∧
    (InMemory (based 0xC2000000) 0x01FFFFFE ∧
      GoesTo (based 0xC2000000) (dataAddress 1 0xFFFE (based 0xC2000000)) .half false 0x01FFFFFE) ∧
    (InMemory (based 0xE0000000) 0x20000000 ∧
      GoesTo (based 0xE0000000) (dataAddress 1 0 (based 0xE0000000)) .byte false 0x20000000) ∧
    (InMemory (based 0xE0040000) 0x2003FFFF ∧
      GoesTo (based 0xE0040000) (dataAddress 1 0xFFFF (based 0xE0040000)) .byte false 0x2003FFFF) :=
  ⟨⟨by decide, based_goes _ (by decide) (by decide) (by decide) rfl⟩,
    ⟨by decide, based_goes _ (by decide) (by decide) (by decide) rfl⟩,
    ⟨by decide, based_goes _ (by decide) (by decide) (by decide) rfl⟩,
    ⟨by decide, based_goes _ (by decide) (by decide) (by decide) rfl⟩,
    ⟨by decide, based_goes _ (by decide) (by decide) (by decide) rfl⟩⟩

theorem witness_StoresWriteRam :
    Memory.wf (based 0xC2000000).mem = true ∧ inRam (based 0xC2000000).cfg (0x01FFFFFC#32).toNat = true ∧
    GoesTo (based 0xC2000000) (dataAddress 1 0xFFFC (based 0xC2000000)) .word true 0x01FFFFFC ∧
    inRam (based 0xC2000000).cfg (0x01FFFFFE#32).toNat = true ∧
    GoesTo (based 0xC2000000) (dataAddress 1 0xFFFE (based 0xC2000000)) .half true 0x01FFFFFE ∧
    inRam (based 0xC0000000).cfg (0#32).toNat = true ∧
    GoesTo (based 0xC0000000) (dataAddress 1 0 (based 0xC0000000)) .byte true 0 :=
  ⟨by decide, by decide, based_goes _ (by decide) (by decide) (by decide) rfl,
    by decide, based_goes _ (by decide) (by decide) (by decide) rfl,
    by decide, based_goes _ (by decide) (by decide) (by decide) rfl⟩

theorem witness_StoresChangeOnlyTheirBytes :
    (∃ t, exec (.stw 2 1 0xFFFC) (based 0xC2000000) = .next t) ∧
    (∃ u, checkAccess (dataAddress 1 0xFFFC (based 0xC2000000)) .word true (based 0xC2000000) = .done 0x01FFFFFC u) ∧
    (∃ t, exec (.sth 2 1 1) (based 0xC2000000) = .next t) ∧
    (∃ c u, checkAccess (dataAddress 1 1 (based 0xC2000000)) .half true (based 0xC2000000) = .fault c u) ∧
    ((0x01FFFFFB : Nat) < 0x01FFFFFC) ∧ Memory.wf (based 0xC2000000).mem = true :=
  ⟨⟨_, rfl⟩, ⟨_, rfl⟩, ⟨_, rfl⟩, ⟨_, _, rfl⟩, by decide, by decide⟩

/-- The reset state on a platform whose ROM leaves writes unanswered. -/
def deafRom (a : Word) : State := { based a with cfg := { Config.demo with romWrite := .unanswered } }

theorem witness_StoresLeaveRomAlone :
    (inRom (based 0xE0000000).cfg (0x20000000#32).toNat = true ∧ (based 0xE0000000).cfg.romWrite = .ignored ∧
      GoesTo (based 0xE0000000) (dataAddress 1 0 (based 0xE0000000)) .word true 0x20000000) ∧
    (inRom (deafRom 0xE0040000).cfg (0x2003FFFF#32).toNat = true ∧ (deafRom 0xE0040000).cfg.romWrite = .unanswered ∧
      GoesTo (deafRom 0xE0040000) (dataAddress 1 0xFFFF (deafRom 0xE0040000)) .byte true 0x2003FFFF) :=
  ⟨⟨by decide, by decide, based_goes _ (by decide) (by decide) (by decide) rfl⟩,
    ⟨by decide, by decide, by decide, fun h => absurd h (by decide), .inl ⟨by decide, by decide⟩⟩⟩

/-- mappedUser with a base address in register 1. -/
def userBased (a : Word) : State := mappedUser.setReg 1 a

theorem witness_FailedAccessesTakeTheirFault :
    FailsWith (userBased 0x80000000) (dataAddress 1 2 (userBased 0x80000000)) .word false (.illegalAddress 0x80000002) ∧
    FailsWith (userBased 0x80000000) (dataAddress 1 0 (userBased 0x80000000)) .half false (.privilegedAddress 0x80000000) ∧
    FailsWith (userBased 0x00002000) (dataAddress 1 0xFFFF (userBased 0x00002000)) .byte false (.tlbMiss 0x00001FFF) ∧
    FailsWith (userBased 0x00003000) (dataAddress 1 0x0FFC (userBased 0x00003000)) .word true (.tlbWrite 0x00003FFC) ∧
    FailsWith (userBased 0x00004000) (dataAddress 1 0 (userBased 0x00004000)) .half true (.tlbInvalid 0x00004000) ∧
    FailsWith (userBased 0x00002000) (dataAddress 1 0xFFFF (userBased 0x00002000)) .byte true (.tlbMiss 0x00001FFF) :=
  ⟨.inl ⟨by decide, by decide⟩, .inr (.inl ⟨by decide, by decide, by decide⟩),
    .inr (.inr (.inl ⟨by decide, by decide, by decide, by decide, by decide⟩)),
    .inr (.inr (.inr ⟨by decide, by decide, by decide, 5, by decide, .inr ⟨by decide, rfl, by decide, by decide⟩⟩)),
    .inr (.inr (.inr ⟨by decide, by decide, by decide, 6, by decide, .inl ⟨by decide, by decide⟩⟩)),
    .inr (.inr (.inl ⟨by decide, by decide, by decide, by decide, by decide⟩))⟩

theorem witness_UnansweredAccessesTakeBusTimeout :
    select (based 0xC2000000).cfg 0x02000000 = .nothing ∧
    GoesTo (based 0xC2000000) (dataAddress 1 0 (based 0xC2000000)) .word false 0x02000000 ∧
    select (based 0xFFFFFFFF).cfg 0x3FFFFFFF = .nothing ∧
    GoesTo (based 0xFFFFFFFF) (dataAddress 1 0 (based 0xFFFFFFFF)) .byte true 0x3FFFFFFF ∧
    GoesTo (based 0xC2000000) (dataAddress 1 0 (based 0xC2000000)) .half true 0x02000000 :=
  ⟨by decide, based_goes _ (by decide) (by decide) (by decide) rfl, by decide,
    based_goes _ (by decide) (by decide) (by decide) rfl, based_goes _ (by decide) (by decide) (by decide) rfl⟩

/-- The timer's control register and the last word of the disk's window. -/
theorem witness_WordAccessesReachDevices :
    select (based 0xF0000000).cfg 0x30000000 = .device .timerControl ∧
    GoesTo (based 0xF0000000) (dataAddress 1 0 (based 0xF0000000)) .word false 0x30000000 ∧
    select (based 0xF0500000).cfg 0x304FFFFC = .device (.diskBuffer 1023) ∧
    GoesTo (based 0xF0500000) (dataAddress 1 0xFFFC (based 0xF0500000)) .word true 0x304FFFFC :=
  ⟨by decide +kernel, based_goes _ (by decide) (by decide) (by decide) rfl, by decide +kernel,
    based_goes _ (by decide) (by decide) (by decide) rfl⟩

theorem witness_SubWordDeviceAccessesComplete :
    select (based 0xF0000000).cfg 0x30000002 = .device .timerControl ∧
    GoesTo (based 0xF0000000) (dataAddress 1 2 (based 0xF0000000)) .half false 0x30000002 ∧
    select (based 0xF0500000).cfg 0x304FFFFF = .device (.diskBuffer 1023) ∧
    GoesTo (based 0xF0500000) (dataAddress 1 0xFFFF (based 0xF0500000)) .byte true 0x304FFFFF :=
  ⟨by decide +kernel, based_goes _ (by decide) (by decide) (by decide) rfl, by decide +kernel,
    based_goes _ (by decide) (by decide) (by decide) rfl⟩

theorem witness_PrivilegedInstructionsFaultInUserMode : mappedUser.psw.uc = true := by decide

theorem witness_RfxPopsTheStacks : State.reset.psw.uc = false := by decide

theorem witness_MvfsReadsSpecialRegisters : State.reset.psw.uc = false ∧ (0#16).toNat ≤ 4 ∧ (4#16).toNat ≤ 4 := by decide

theorem witness_MvtsWritesSpecialRegisters : State.reset.psw.uc = false := by decide

/-- mapped with a page number in S[2]. -/
def searching (page : Page) : State := mapped.setHigh { page := page, ignored := 0xABC }

theorem witness_TbsSearchesTheTlb :
    (searching 2).psw.uc = false ∧ OnlyEntry (searching 2) (searching 2).tlbHigh.page 4 ∧
    OnlyEntry (searching 0xC001F) (searching 0xC001F).tlbHigh.page 31 ∧
    NoEntry (searching 1) (searching 1).tlbHigh.page := by decide

theorem witness_TbwrReplacesANonFixedEntry : State.reset.psw.uc = false := by decide

theorem witness_TbwiWritesTheIndexedEntry : State.reset.psw.uc = false := by decide

theorem witness_TbriReadsTheIndexedEntry :
    (mapped.setIndex { miss := true, ignored := 5, index := 31 }).psw.uc = false ∧
    (mapped.setIndex { miss := true, ignored := 5, index := 31 }).tlbIndex.toWord.toNat % 32 = (31#5).toNat := by decide

/-- An ADD at the last word of the RAM, before it a key. -/
def keyThenAdd : State := withEvents (placed 0xC1FFFFFC 0x00221800) [.key 0x1C]

/-- An instruction of all zeros in the first cell of the display, fetched from there. -/
def inDisplay : State := State.reset.setPc 0xF0100000

theorem witness_StepRunsTheDecodedInstruction :
    (∃ u, inDisplay.turnInput.reset = false ∧ u = applyEvents inDisplay.turnInput.before (beginTurn inDisplay) ∧
      GoesTo u u.pc .word false 0x30100000 ∧ select u.cfg 0x30100000 = .device (.displayCell 0)) ∧
    ∃ u, keyThenAdd.turnInput.reset = false ∧ u = applyEvents keyThenAdd.turnInput.before (beginTurn keyThenAdd) ∧
      GoesTo u u.pc .word false 0x01FFFFFC ∧ InMemory u 0x01FFFFFC ∧
      decode (Cells.bytes u.mem (0x01FFFFFC#32).toNat 4) = .ok (.add 3 1 2, []) :=
  ⟨⟨_, rfl, rfl, ⟨by decide, fun h => absurd h (by decide), .inl ⟨by decide, by decide⟩⟩, rfl⟩,
    _, rfl, rfl, ⟨by decide, fun h => absurd h (by decide), .inl ⟨by decide, by decide⟩⟩, by decide, by decide⟩

theorem witness_FailedFetchesTakeTheirFault :
    (∃ u, u = applyEvents (mappedUser.setPc 0x2102).turnInput.before (beginTurn (mappedUser.setPc 0x2102)) ∧
      (mappedUser.setPc 0x2102).turnInput.reset = false ∧ FailsWith u u.pc .word false (.illegalAddress 0x2102)) ∧
    (∃ u, u = applyEvents (State.reset.setPc 0xC2000000).turnInput.before (beginTurn (State.reset.setPc 0xC2000000)) ∧
      (State.reset.setPc 0xC2000000).turnInput.reset = false ∧ GoesTo u u.pc .word false 0x02000000 ∧
      select u.cfg 0x02000000 = .nothing) :=
  ⟨⟨_, rfl, rfl, .inl ⟨by decide, by decide⟩⟩,
    ⟨_, rfl, rfl, ⟨by decide, fun h => absurd h (by decide), .inl ⟨by decide, by decide⟩⟩, by decide⟩⟩

/-- PSW.IC and every IEN bit 1, lines 0 and 15 asserted. -/
def signalled : State :=
  { State.reset with
    psw := Psw.ofWord 0x0080FFFF 0, cfg := { Config.demo with otherIrq := 0x8001 }, extIrq := 0x8001 }

theorem witness_AdmittedInterruptsAreAccepted :
    signalled.psw.ic = true ∧ (∃ i < 16, signalled.irq i = true ∧ signalled.psw.ien.getLsbD i = true) ∧
    signalled.irq 0 = true ∧ signalled.irq 15 = true ∧ State.reset.psw.ic = false ∧
    ({ signalled with psw := Psw.ofWord 0x00800002 0 } : State).psw.ic = true ∧
    (∀ i < 16, ({ signalled with psw := Psw.ofWord 0x00800002 0 } : State).irq i = false ∨
      ({ signalled with psw := Psw.ofWord 0x00800002 0 } : State).psw.ien.getLsbD i = false) :=
  ⟨by decide, ⟨15, by decide, by decide, by decide⟩, by decide, by decide, by decide, by decide, by decide⟩

theorem witness_ResetLineSetsTheResetState :
    (mappedUser.setInputs [{ reset := true, before := [], after := [.key 1] }]).turnInput.reset = true := by decide

theorem witness_ResetRunsTheFirstRomWord :
    decodeWord 0xABFFFFFF = .ok (.j 0x3FFFFFF) ∧ ∃ s, s = State.reset.withFetchWord 32 (0xABFFFFFF#32).toNat :=
  ⟨by decide, _, rfl⟩

theorem placed_inv : (placed 0xE0000000 0x00221800).Inv := by
  refine ⟨by decide, by decide, by decide, by decide⟩

theorem witness_StepKeepsTheInvariant :
    (placed 0xE0000000 0x00221800).Inv ∧ ∃ t, step (placed 0xE0000000 0x00221800) = .next t :=
  ⟨placed_inv, let ⟨t, h, _⟩ := next_of_steps (s := placed 0xE0000000 0x00221800) (p := fun _ => true) (by decide); ⟨t, h⟩⟩

theorem witness_StepNeverChangesRom :
    (placed 0xE0000000 0x00221800).Inv ∧ (∃ t, step (placed 0xE0000000 0x00221800) = .next t) ∧
    inRom (placed 0xE0000000 0x00221800).cfg 0x20000000 = true ∧ inRom (placed 0xE0000000 0x00221800).cfg 0x2003FFFF = true :=
  ⟨placed_inv, witness_StepKeepsTheInvariant.2, by decide, by decide⟩

theorem witness_UserModeCannotTouchPrivilegedState :
    (userAt 0xF4000000 0).psw.uc = true ∧ (userAt 0xF4000000 0).turnInput.reset = false ∧
    ∃ t, step (userAt 0xF4000000 0) = .next t :=
  ⟨by decide, by decide, let ⟨t, h, _⟩ := next_of_steps (s := userAt 0xF4000000 0) (p := fun _ => true) (by decide); ⟨t, h⟩⟩

/-- The same with interrupts enabled and line 3 asserted. -/
def userInterrupted : State :=
  { userAt 0x00221800 0 with
    psw := Psw.ofWord 0x0C800008 0, cfg := { Config.demo with otherIrq := 8 }, extIrq := 8 }

/-- A TRAP, a User Space TLB Miss of a fetch, and an interrupt. -/
theorem witness_KernelModeIsEnteredOnlyByAnException :
    (userInterrupted.psw.uc = true ∧ userInterrupted.turnInput.reset = false ∧
      ∃ t, step userInterrupted = .next t ∧ t.psw.uc = false) ∧
    (((userAt 0 0).setPc 0x5000).psw.uc = true ∧ ((userAt 0 0).setPc 0x5000).turnInput.reset = false ∧
      ∃ t, step ((userAt 0 0).setPc 0x5000) = .next t ∧ t.psw.uc = false) ∧
    (userAt 0xB8000000 0).psw.uc = true ∧ (userAt 0xB8000000 0).turnInput.reset = false ∧
    ∃ t, step (userAt 0xB8000000 0) = .next t ∧ t.psw.uc = false :=
  ⟨⟨by decide, by decide,
      let ⟨t, h, g⟩ := next_of_steps (s := userInterrupted) (p := fun t => !t.psw.uc) (by decide)
      ⟨t, h, by simpa using g⟩⟩,
    ⟨by decide, by decide,
      let ⟨t, h, g⟩ := next_of_steps (s := (userAt 0 0).setPc 0x5000) (p := fun t => !t.psw.uc) (by decide)
      ⟨t, h, by simpa using g⟩⟩,
    by decide, by decide,
    let ⟨t, h, g⟩ := next_of_steps (s := userAt 0xB8000000 0) (p := fun t => !t.psw.uc) (by decide)
    ⟨t, h, by simpa using g⟩⟩

theorem witness_OnlyLoadsAndStoresUseTheBus :
    (∃ t, exec (.ldw 2 1 0) (based 0xC0000000) = .next t) ∧ ∃ t, exec (.add 2 1 1) (based 0xC0000000) = .next t :=
  ⟨⟨_, rfl⟩, ⟨_, rfl⟩⟩

/-- A timer that holds 5. -/
def ticking : State := { State.reset with dev := { Devices.reset with timer := { Timer.reset with counter := 5 } } }

/-- The demonstration platform has its devices where R105 puts them. -/
theorem demo_devices :
    HasDevice Config.demo .timer 0x30000000 ∧ HasDevice Config.demo .display 0x30100000 ∧
    HasDevice Config.demo .keyboard 0x30200000 ∧ HasDevice Config.demo .terminal 0x30300000 ∧
    HasDevice Config.demo .disk 0x30400000 := by
  refine ⟨?_, ?_, ?_, ?_, ?_⟩ <;> intro pa h1 h2 <;> simp [windowOf, Config.demo, List.find?_cons] <;> grind

/-- A platform with a device of its own at 0x31000000 answers there (R64, log 39). -/
theorem test_other_device :
    select { Config.demo with windows := [{ base := 0x31000000, size := 16, kind := .other }] } 0x3100000C =
      .device .other ∧
    select { Config.demo with windows := [{ base := 0x31000000, size := 16, kind := .other }] } 0x31000010 = .nothing ∧
    select { Config.demo with windows := [{ base := 0x31000000, size := 16, kind := .timer }] } 0x31000004 =
      .device .timerDivisor := by decide +kernel

theorem witness_TimerRegistersReadAndWrite :
    HasDevice ticking.cfg .timer 0x30000000 ∧ 0 < ticking.dev.timer.counter.toNat ∧ 4 < ticking.dev.timer.counter.toNat ∧
    (0 < 5 ∧ 5 = ticking.dev.timer.counter.toNat) := ⟨demo_devices.1, by decide, by decide, by decide⟩

theorem witness_KeyboardRegistersReadAndWrite :
    HasDevice State.reset.cfg .keyboard 0x30200000 ∧ State.reset.dev.keyboard.ready = false :=
  ⟨demo_devices.2.2.1, by decide⟩

theorem witness_TerminalRegistersReadAndWrite :
    HasDevice State.reset.cfg .terminal 0x30300000 ∧ (State.reset.dev.terminal true).rcvReady = false :=
  ⟨demo_devices.2.2.2.1, by decide⟩

theorem witness_DisplayCellsAreKept :
    HasDevice State.reset.cfg .display 0x30100000 ∧ State.reset.dev.wf = true ∧
    (0x30100000#32).toNat = 0x30100000 + 4 * (128 * 0 + 0) ∧ (0x30103FFC#32).toNat = 0x30100000 + 4 * (128 * 31 + 127) :=
  ⟨demo_devices.2.1, by decide, by decide, by decide⟩

/-- An initialized disk of 16 sectors' capacity, with an action in progress or not. -/
def diskState (busy wr : Bool) (count sector : Word) : State :=
  { State.reset with
    cfg := { Config.demo with diskCapacity := 16 }
    dev := { Devices.reset with
      disk := { Disk.reset with init := true, busy := busy, wr := wr, count := count, sector := sector } } }

/-- START, WR = 1, FIN and IEN written during a read: WR and the arguments stay, the action goes on (R338, R339). -/
theorem test_start_during_action :
    (diskState true false 3 5).dev.write .diskControl 0x17 0 =
      { (diskState true false 3 5).dev with disk :=
        { (diskState true false 3 5).dev.disk with fin := true, ien := true, again := true } } := by decide

theorem witness_DiskRegistersReadAndWrite :
    HasDevice (diskState false false 0 0).cfg .disk 0x30400000 ∧ (diskState false false 0 0).dev.disk.init = true ∧
    (diskState false false 0 0).dev.disk.busy = false ∧ (diskState true false 1 0).dev.disk.busy = true ∧
    (diskState false false 0 0).dev.wf = true ∧
    (0x30480000#32).toNat % 4 = 0 ∧ 0x304FFFFC < 0x30500000 ∧ (0x304FFFFC#32).toNat % 4096 = 4092 :=
  ⟨demo_devices.2.2.2.2, by decide, by decide, by decide, by decide, by decide, by decide, by decide⟩

/-- Eight sectors up to the end of the disk, for a read and for a write. -/
theorem witness_DiskActionsMoveSectors : ∀ wr : Bool,
    (diskState true wr 8 8).dev.wf = true ∧ (diskState true wr 8 8).dev.disk.busy = true ∧
    (diskState true wr 8 8).dev.disk.count.toNat ≤ 8 ∧
    (diskState true wr 8 8).dev.disk.sector.toNat + (diskState true wr 8 8).dev.disk.count.toNat ≤
      (diskState true wr 8 8).cfg.diskCapacity.toNat ∧ (diskState true wr 8 8).dev.disk.wr = wr ∧
    (diskState true wr 8 8).dev.disk.again = false := by decide

theorem witness_InterruptLinesFollowTheDevices : State.reset.cfg = Config.demo := by decide

end Sys2Proof.Tests
end

/-! SUPPORT. What an instruction and a whole step leave of memory, configuration and the record of bus cycles (spec
10_state.md R44 to R46), from the cases of Laws/Exec.lean and Laws/Loop.lean. -/

namespace Sys2Proof.Machine

/-! ## The state after reset (R46) -/

/-- Settles O45: each value is a field of State.reset, and x[0] has no storage (R21). -/
theorem resetStateIsAsStated : Obligations.ResetStateIsAsStated := by
  refine ⟨rfl, ?_, rfl, State.reg_zero⟩
  decide

/-- The demonstration platform stays inside the fixed map (R62, R105). -/
theorem configSound_demo : configSound Config.demo = true := by decide

/-- The storages of the devices are empty after reset (log 6). -/
theorem Devices.wf_reset : Devices.reset.wf = true :=
  (Devices.wf_iff _).2 ⟨rfl, rfl, rfl, rfl, rfl⟩

/-- Settles O48: the demonstration platform is sound and every storage is empty. -/
theorem resetMeetsTheInvariant : Obligations.ResetMeetsTheInvariant :=
  ⟨configSound_demo, rfl, rfl, Devices.wf_reset⟩

/-! ## Instructions that stay inside the core -/

/-- What lies outside the core is as before, the record of bus cycles included. -/
structure SameBeyondCore (s t : State) : Prop where
  mem : t.mem = s.mem
  dev : t.dev = s.dev
  extIrq : t.extIrq = s.extIrq
  cfg : t.cfg = s.cfg
  inputs : t.inputs = s.inputs
  bus : t.bus = s.bus

/-- Raising a fault writes registers of the core alone (R80, R290). -/
theorem sameBeyondCore_raise (c : Cause) (ret : Word) (s : State) : SameBeyondCore s (raise c ret s) := by
  constructor <;> simp

theorem sameBeyondCore_setReg (r : Reg) (v : Word) (s : State) : SameBeyondCore s (s.setReg r v) := by
  constructor <;> simp

/-- A write of a special register stays inside the core (R254). -/
theorem sameBeyondCore_setSpecial {s t : State} {z : Half} {v : Word} (h : s.setSpecial z v = some t) :
    SameBeyondCore s t := by
  obtain ⟨-, g, rfl⟩ | ⟨-, g, rfl⟩ | ⟨-, g, rfl⟩ | ⟨-, g, rfl⟩ | ⟨-, rfl⟩ := State.setSpecial_cases h
  all_goals exact ⟨rfl, rfl, rfl, rfl, rfl, rfl⟩

/-- Computation, branches, jumps and TRAP reach nothing outside the core (R160, R200, R251). -/
theorem CoreEffect.sameBeyondCore {s t : State} (h : CoreEffect s t) : SameBeyondCore s t := by
  cases h with
  | none => exact ⟨rfl, rfl, rfl, rfl, rfl, rfl⟩
  | result r v => exact sameBeyondCore_setReg r v s
  | jump target => exact ⟨rfl, rfl, rfl, rfl, rfl, rfl⟩
  | link target => constructor <;> simp
  | divisionByZero => exact sameBeyondCore_raise _ _ s
  | trap => exact sameBeyondCore_raise _ _ s

/-- The privileged instructions reach nothing outside the core (R250 to R258). -/
theorem KernelEffect.sameBeyondCore {s t : State} (h : KernelEffect s t) : SameBeyondCore s t := by
  cases h with
  | faultUser => exact sameBeyondCore_raise _ _ s
  | faultNumber => exact sameBeyondCore_raise _ _ s
  | rfx => constructor <;> simp
  | mvfs _ r v => exact sameBeyondCore_setReg r v s
  | mvts _ z v _ h => exact sameBeyondCore_setSpecial h
  | tbs => constructor <;> simp
  | tbwr => exact ⟨rfl, rfl, rfl, rfl, rfl, rfl⟩
  | tbri => constructor <;> simp
  | tbwi => exact ⟨rfl, rfl, rfl, rfl, rfl, rfl⟩

/-- The next state that an instruction answers is one of the four kinds of effect. -/
theorem effect_of_exec {i : Instr} {s t : State} (h : exec i s = .next t) :
    CoreEffect s t ∨ KernelEffect s t ∨ (Instr.IsLoad i ∧ LoadEffect s t) ∨ (Instr.IsStore i ∧ StoreEffect s t) := by
  obtain ⟨u, hu, heffect⟩ := exec_effect i s
  cases hu.symm.trans h
  exact heffect

/-! ## Bus cycles (R44, R91, R230) -/

/-- A load makes one bus cycle, or none if it fails a check before the bus. -/
theorem LoadEffect.bus {s t : State} (h : LoadEffect s t) : t.bus = s.bus ∨ ∃ c, t.bus = s.bus ++ [c] := by
  cases h with
  | done va w v u hu r x =>
    obtain ⟨-, -, -, hbus, -⟩ := memRead_done hu
    rw [State.setReg_bus]
    exact .inr hbus
  | fault va w c u hu =>
    obtain ⟨-, -, -, -, hbus⟩ := memRead_fault hu
    rwa [raise_bus]

/-- A store makes one bus cycle, or none if it fails a check before the bus. -/
theorem StoreEffect.bus {s t : State} (h : StoreEffect s t) : t.bus = s.bus ∨ ∃ c, t.bus = s.bus ++ [c] := by
  cases h with
  | done va w v k _ hu =>
    obtain ⟨-, -, hbus, -⟩ := memWrite_done hu
    exact .inr hbus
  | fault va w v c u hu =>
    obtain ⟨-, -, -, -, hbus⟩ := memWrite_fault hu
    rwa [raise_bus]

/-- Settles O53, by the four kinds of effect that an instruction can have. -/
theorem onlyLoadsAndStoresUseTheBus : Obligations.OnlyLoadsAndStoresUseTheBus := by
  intro i s t h
  obtain hcore | hkernel | ⟨⟨r, x, y, hi⟩, hload⟩ | ⟨⟨r, x, y, hi⟩, hstore⟩ := effect_of_exec h
  · exact .inl hcore.sameBeyondCore.bus
  · exact .inl hkernel.sameBeyondCore.bus
  · exact hload.bus.imp_right fun hbus => ⟨hbus, r, x, y, by tauto⟩
  · exact hstore.bus.imp_right fun hbus => ⟨hbus, r, x, y, by tauto⟩

/-! ## Memory and configuration (R45, R99) -/

/-- The configuration is as before, and memory too but for one aligned store to RAM at most. -/
structure AtMostRamStore (s t : State) : Prop where
  cfg : t.cfg = s.cfg
  mem : t.mem = s.mem ∨ ∃ (pa v : Word) (w : Width), Aligned pa w ∧ inRam s.cfg pa.toNat = true ∧
    t.mem = Memory.write s.mem pa.toNat w v

theorem AtMostRamStore.of_same {s t : State} (hcfg : t.cfg = s.cfg) (hmem : t.mem = s.mem) : AtMostRamStore s t :=
  ⟨hcfg, .inl hmem⟩

theorem SameBeyondCore.atMostRamStore {s t : State} (h : SameBeyondCore s t) : AtMostRamStore s t :=
  .of_same h.cfg h.mem

/-- What keeps configuration and memory may come before and after. -/
theorem AtMostRamStore.between {s t u v : State} (h : AtMostRamStore t u) (hc : t.cfg = s.cfg) (hm : t.mem = s.mem)
    (hc' : v.cfg = u.cfg) (hm' : v.mem = u.mem) : AtMostRamStore s v := by
  refine ⟨hc'.trans (h.cfg.trans hc), ?_⟩
  rw [hm', ← hm, ← hc]
  exact h.mem

theorem LoadEffect.atMostRamStore {s t : State} (h : LoadEffect s t) : AtMostRamStore s t := by
  cases h with
  | done va w v u hu r x =>
    obtain ⟨hcore, -, hmem, -⟩ := memRead_done hu
    exact .of_same (by simp [hcore.cfg]) (by simp [hmem])
  | fault va w c u hu =>
    obtain ⟨hcore, -, hmem, -⟩ := memRead_fault hu
    exact .of_same (by simp [hcore.cfg]) (by simp [hmem])

theorem StoreEffect.atMostRamStore {s t : State} (h : StoreEffect s t) : AtMostRamStore s t := by
  cases h with
  | done va w v k _ hu =>
    obtain ⟨hcore, -, -, -, pa, _, -, haligned, hmem⟩ := memWrite_done hu
    exact ⟨hcore.cfg, hmem.imp_right fun ⟨hram, hw⟩ => ⟨pa, v, w, haligned, hram, hw⟩⟩
  | fault va w v c u hu =>
    obtain ⟨hcore, -, hmem, -⟩ := memWrite_fault hu
    exact .of_same (by simp [hcore.cfg]) (by simp [hmem])

theorem exec_atMostRamStore {i : Instr} {s t : State} (h : exec i s = .next t) : AtMostRamStore s t := by
  obtain hcore | hkernel | ⟨-, hload⟩ | ⟨-, hstore⟩ := effect_of_exec h
  · exact hcore.sameBeyondCore.atMostRamStore
  · exact hkernel.sameBeyondCore.atMostRamStore
  · exact hload.atMostRamStore
  · exact hstore.atMostRamStore

/-- The fetch reads, so that the store is the executed instruction's. -/
theorem fetchAndExecute_atMostRamStore {s t : State} (h : fetchAndExecute s = .next t) : AtMostRamStore s t := by
  obtain ⟨c, u, hf, he⟩ | ⟨w, u, e, hf, -, he⟩ | ⟨w, u, i, hf, -, he⟩ := fetchAndExecute_cases s <;>
    rw [he] at h
  · obtain ⟨hcore, -, hmem, -⟩ := memRead_fault hf
    cases h
    exact .of_same (by simp [hcore.cfg]) (by simp [hmem])
  · obtain ⟨hcore, -, hmem, -⟩ := memRead_done hf
    cases h
    exact .of_same (by simp [hcore.cfg]) (by simp [hmem])
  · obtain ⟨hcore, -, hmem, -⟩ := memRead_done hf
    exact (exec_atMostRamStore h).between hcore.cfg hmem rfl rfl

theorem interruptTest_cfg_mem (s : State) : (interruptTest s).cfg = s.cfg ∧ (interruptTest s).mem = s.mem := by
  obtain ⟨h, -⟩ | ⟨-, i, -, h⟩ := interruptTest_cases s <;> simp [h]

/-- The reset line leaves memory and configuration alone (R350, log 20). -/
theorem resetLine_cfg_mem (s : State) : (resetLine s).cfg = s.cfg ∧ (resetLine s).mem = s.mem := by
  simp only [resetLine, and_self]

/-- Events and the interrupt test keep configuration and memory, and so does the reset line (R350): the store is the
instruction's. -/
theorem step_atMostRamStore {s t : State} (h : step s = .next t) : AtMostRamStore s t := by
  obtain ⟨-, hmem, hcfg, -⟩ := atFetch_frame s
  obtain ⟨-, rfl⟩ | ⟨-, u, hu, rfl⟩ := step_cases h
  · obtain ⟨hcore, hmem', -⟩ :=
      applyEvents_frame s.turnInput.after (applyEvents s.turnInput.before (beginTurn s))
    obtain ⟨hcfg'', hmem''⟩ :=
      resetLine_cfg_mem (applyEvents s.turnInput.after (applyEvents s.turnInput.before (beginTurn s)))
    exact .of_same (hcfg''.trans (hcore.cfg.trans hcfg)) (hmem''.trans (hmem'.trans hmem))
  · obtain ⟨hcore, hmem', -⟩ := applyEvents_frame s.turnInput.after u
    obtain ⟨hcfg'', hmem''⟩ := interruptTest_cfg_mem (applyEvents s.turnInput.after u)
    exact (fetchAndExecute_atMostRamStore hu).between hcfg hmem (hcfg''.trans hcore.cfg) (hmem''.trans hmem')

/-- An aligned store that begins in RAM ends below the ROM, whose first address is a multiple of every width (R62, R70). -/
theorem Aligned.end_le_of_inRam {c : Config} {pa : Word} {w : Width} (ha : Aligned pa w)
    (hram : inRam c pa.toNat = true) : pa.toNat + w.bytes ≤ 0x20000000 := by
  simp only [inRam, Bool.and_eq_true, decide_eq_true_eq] at hram
  cases w <;> simp only [Aligned, Width.bytes] at * <;> omega

/-- A byte of ROM lies outside every aligned store to RAM. -/
theorem AtMostRamStore.byte_of_inRom {s t : State} (h : AtMostRamStore s t) (hwf : Memory.wf s.mem = true) {a : Nat}
    (ha : inRom s.cfg a = true) : Memory.byte t.mem a = Memory.byte s.mem a := by
  obtain hmem | ⟨pa, v, w, haligned, hram, hmem⟩ := h.mem
  · rw [hmem]
  · have hend := haligned.end_le_of_inRam hram
    simp only [inRom, Bool.and_eq_true, decide_eq_true_eq] at ha
    rw [hmem]
    exact Memory.byte_write_of_outside w v hwf (.inr (by omega))

/-- Settles O50: a step makes at most one store, into RAM. -/
theorem stepNeverChangesRom : Obligations.StepNeverChangesRom := by
  rintro s t ⟨-, hwf, -, -⟩ h
  have hstore := step_atMostRamStore h
  exact ⟨hstore.cfg, fun _ ha => hstore.byte_of_inRom hwf ha⟩

end Sys2Proof.Machine

/-! SUPPORT. What every step keeps (spec 20_memory.md R62, R66). The configuration and memory come from the one store that
a step makes at most; the storages of the devices are followed through the parts of a turn. -/

namespace Sys2Proof.Machine

/-! ## One aligned store to RAM (R62, R66) -/

/-- On a platform of whole words an aligned access that begins in RAM lies in RAM with all its bytes (R62, R70). -/
theorem Aligned.inRam_bytes {c : Config} {pa : Word} {w : Width} (ha : Aligned pa w) (hc : configSound c = true)
    (hram : inRam c pa.toNat = true) : ∀ j < w.bytes, inRam c (pa.toNat + j) = true := by
  intro j hj
  simp only [configSound, inRam, Bool.and_eq_true, decide_eq_true_eq] at *
  cases w <;> simp only [Aligned, Width.bytes] at * <;> omega

theorem AtMostRamStore.wf_mem {s t : State} (h : AtMostRamStore s t) (hwf : Memory.wf s.mem = true) :
    Memory.wf t.mem = true := by
  obtain hmem | ⟨pa, v, w, -, -, hmem⟩ := h.mem
  · rwa [hmem]
  · rw [hmem]
    exact Memory.wf_write _ w v hwf

/-- The store lists no address outside RAM and ROM. -/
theorem AtMostRamStore.within_mem {s t : State} (h : AtMostRamStore s t) (hsound : configSound s.cfg = true)
    (hin : Cells.within (fun a => inRam s.cfg a || inRom s.cfg a) s.mem = true) :
    Cells.within (fun a => inRam s.cfg a || inRom s.cfg a) t.mem = true := by
  obtain hmem | ⟨pa, v, w, haligned, hram, hmem⟩ := h.mem
  · rwa [hmem]
  · rw [hmem]
    refine Memory.within_write w v hin fun j hj => ?_
    simp [haligned.inRam_bytes hsound hram j hj]

/-! ## The storages of the devices (R332, R341) -/

theorem LoadEffect.wf_dev {s t : State} (h : LoadEffect s t) (hwf : s.dev.wf = true) : t.dev.wf = true := by
  cases h with
  | done va w v u hu r x =>
    obtain ⟨-, -, -, -, hdev⟩ := memRead_done hu
    simpa using hdev hwf
  | fault va w c u hu =>
    obtain ⟨-, -, -, hdev, -⟩ := memRead_fault hu
    simpa [hdev] using hwf

theorem StoreEffect.wf_dev {s t : State} (h : StoreEffect s t) (hwf : s.dev.wf = true) : t.dev.wf = true := by
  cases h with
  | done va w v k _ hu =>
    obtain ⟨-, -, -, hdev, -⟩ := memWrite_done hu
    exact hdev hwf
  | fault va w v c u hu =>
    obtain ⟨-, -, -, hdev, -⟩ := memWrite_fault hu
    simpa [hdev] using hwf

theorem exec_wf_dev {i : Instr} {s t : State} (h : exec i s = .next t) (hwf : s.dev.wf = true) : t.dev.wf = true := by
  obtain hcore | hkernel | ⟨-, hload⟩ | ⟨-, hstore⟩ := effect_of_exec h
  · rwa [hcore.sameBeyondCore.dev]
  · rwa [hkernel.sameBeyondCore.dev]
  · exact hload.wf_dev hwf
  · exact hstore.wf_dev hwf

/-- The fetch may read a device word, which keeps the devices canonical too (R83). -/
theorem fetchAndExecute_wf_dev {s t : State} (h : fetchAndExecute s = .next t) (hwf : s.dev.wf = true) :
    t.dev.wf = true := by
  obtain ⟨c, u, hf, he⟩ | ⟨w, u, e, hf, -, he⟩ | ⟨w, u, i, hf, -, he⟩ := fetchAndExecute_cases s <;>
    rw [he] at h
  · obtain ⟨-, -, -, hdev, -⟩ := memRead_fault hf
    cases h
    simpa [hdev] using hwf
  · obtain ⟨-, -, -, -, hdev⟩ := memRead_done hf
    cases h
    simpa using hdev hwf
  · obtain ⟨-, -, -, -, hdev⟩ := memRead_done hf
    exact exec_wf_dev h (hdev hwf)

theorem interruptTest_dev (s : State) : (interruptTest s).dev = s.dev := by
  obtain ⟨h, -⟩ | ⟨-, i, -, h⟩ := interruptTest_cases s <;> simp [h]

theorem step_wf_dev {s t : State} (h : step s = .next t) (hwf : s.dev.wf = true) : t.dev.wf = true := by
  obtain ⟨-, -, -, hbefore⟩ := applyEvents_frame s.turnInput.before (beginTurn s)
  have hwf' := hbefore hwf
  obtain ⟨-, rfl⟩ | ⟨-, u, hu, rfl⟩ := step_cases h
  · obtain ⟨-, -, -, hafter⟩ :=
      applyEvents_frame s.turnInput.after (applyEvents s.turnInput.before (beginTurn s))
    exact Devices.wf_afterReset _ (hafter hwf')
  · obtain ⟨-, -, -, hafter⟩ := applyEvents_frame s.turnInput.after u
    rw [interruptTest_dev]
    exact hafter (fetchAndExecute_wf_dev hu hwf')

/-- Settles O47: a step keeps the configuration, makes at most one aligned store, into RAM, and keeps the storages of the
devices canonical. -/
theorem stepKeepsTheInvariant : Obligations.StepKeepsTheInvariant := by
  rintro s t ⟨hsound, hwf, hin, hdev⟩ h
  have hstore := step_atMostRamStore h
  refine ⟨?_, hstore.wf_mem hwf, ?_, step_wf_dev h hdev⟩
  · rwa [hstore.cfg]
  · rw [hstore.cfg]
    exact hstore.within_mem hsound hin

end Sys2Proof.Machine

/-! SUPPORT. Memory at every width, translation, the checks before the bus and taking an exception (spec 20_memory.md R62
to R95, 60_exceptions.md R290, R291). -/

namespace Sys2Proof.Machine

/-! ## Bytes written and read (R66, R67) -/

/-- What a byte reads after a byte is written. -/
theorem Memory.byte_write_byte {m : Memory} (a b : Nat) (v : Word) (hm : Memory.wf m = true) :
    Memory.byte (Memory.write m a .byte v) b = if b = a then v.extractLsb' 0 8 else Memory.byte m b :=
  Cells.get_put a b _ hm

/-- What a byte reads after a half-word is written: the upper byte lies at the lower address (R66). -/
theorem Memory.byte_write_half {m : Memory} (a b : Nat) (v : Word) (hm : Memory.wf m = true) :
    Memory.byte (Memory.write m a .half v) b =
      if b = a + 1 then v.extractLsb' 0 8 else if b = a then v.extractLsb' 8 8 else Memory.byte m b := by
  have hput := Cells.get_putHalf a b (v.extractLsb' 0 16) hm
  simp only [BitVec.extractLsb'_extractLsb'_of_le, Nat.reduceAdd, Nat.reduceLeDiff] at hput
  exact hput

/-- What a byte reads after a word is written. -/
theorem Memory.byte_write_word {m : Memory} (a b : Nat) (v : Word) (hm : Memory.wf m = true) :
    Memory.byte (Memory.write m a .word v) b =
      if b = a + 3 then v.extractLsb' 0 8 else if b = a + 2 then v.extractLsb' 8 8
      else if b = a + 1 then v.extractLsb' 16 8 else if b = a then v.extractLsb' 24 8 else Memory.byte m b :=
  Cells.get_putWord a b v hm

theorem Memory.read_byte (m : Memory) (a : Nat) : Memory.read m a .byte = (Memory.byte m a).setWidth 32 := rfl

theorem Memory.read_half (m : Memory) (a : Nat) :
    Memory.read m a .half = (Memory.byte m a ++ Memory.byte m (a + 1) : Half).setWidth 32 := rfl

/-- Two neighbouring bytes of a word, the upper one first, are the half-word of the word that they cover. -/
theorem bytes_append (v : Word) (k : Nat) :
    (v.extractLsb' (k + 8) 8 ++ v.extractLsb' k 8 : Half) = v.extractLsb' k 16 :=
  BitVec.extractLsb'_append_extractLsb'_eq_extractLsb' rfl

/-- Settles O6: each byte of the store is read at its place, and the wider reads put the bytes together again. -/
theorem storedBytesAreSeenAtEveryWidth : Obligations.StoredBytesAreSeenAtEveryWidth := by
  intro m a v hm
  refine ⟨?_, ?_, ?_, fun k b hb => Memory.byte_write_of_outside k v hm hb⟩
  · have hupper := bytes_append v 16
    have hlower := bytes_append v 0
    simp only [Memory.byte_write_word _ _ _ hm, Memory.read_half]
    exact ⟨by simp, by simp, by simp, by simp, by simpa using congrArg _ hupper, by simpa using congrArg _ hlower,
      Cells.word_putWord a v hm⟩
  · have hwhole := bytes_append v 0
    simp only [Memory.byte_write_half _ _ _ hm, Memory.read_half]
    exact ⟨by simp, by simp, by simpa using congrArg _ hwhole⟩
  · simp only [Memory.byte_write_byte _ _ _ hm, Memory.read_byte]
    exact ⟨by simp, by simp⟩

/-! ## Translation (R75 to R81) -/

/-- Below 0xC0000000 the TLB decides (R76). -/
theorem translate_of_pageMapped {va : Word} (h : va.toNat < 0xC0000000) (isWrite : Bool) (s : State) :
    translate va isWrite s = useEntry va isWrite (lookup (pageOf va) s).1 (lookup (pageOf va) s).2 := by
  have hd : ¬ directMapped va = true := by
    rw [directMapped_iff]
    omega
  simp [translate, hd]

theorem translate_of_noEntry {s : State} {va : Word} (h : va.toNat < 0xC0000000) (isWrite : Bool)
    (hn : NoEntry s (pageOf va)) : translate va isWrite s = .fault (.tlbMiss va) s := by
  rw [translate_of_pageMapped h, lookup_none hn]
  rfl

theorem translate_of_onlyEntry {s : State} {va : Word} {i : BitVec 5} (h : va.toNat < 0xC0000000) (isWrite : Bool)
    (hi : OnlyEntry s (pageOf va) i) : translate va isWrite s = useEntry va isWrite (some (s.entry i)) s := by
  rw [translate_of_pageMapped h, lookup_only hi]

/-- Settles O9, by the lookup's answer and, for an entry, its flags in the order of R78. -/
theorem translationFollowsTheTlb : Obligations.TranslationFollowsTheTlb := by
  intro s va isWrite hva
  refine ⟨translate_of_noEntry hva isWrite, fun i hi => ⟨fun hinvalid => ?_, fun hvalid hwrite hro => ?_, ?_⟩⟩
  · simp [translate_of_onlyEntry hva isWrite hi, useEntry, hinvalid]
  · subst hwrite
    simp [translate_of_onlyEntry hva true hi, useEntry, hvalid, hro]
  · intro hvalid hwritable
    exact ⟨_, translate_of_mapsTo (.inr ⟨hva, i, hi, hvalid, hwritable, rfl⟩), frame_append_toNat _ va⟩

/-- The lookup of a page that two entries hold uses a free value (R81, log 9). -/
theorem lookup_duplicate {s : State} {page : Page} {i j : BitVec 5} (hij : i ≠ j) (hi : (s.entry i).page = page)
    (hj : (s.entry j).page = page) : lookup page s = (freeMapping s.draws page, s.drawn 1) := by
  obtain ⟨a, b, rest, hhits⟩ := s.hits_of_two page hij hi hj
  simp only [lookup, hhits]

/-- Settles O10: whatever the free mapping is, the checks on it answer its frame with the page offset or a TLB fault. -/
theorem duplicatePagesGiveSomeMapping : Obligations.DuplicatePagesGiveSomeMapping := by
  intro s va isWrite i j hva hij hi hj
  rw [translate_of_pageMapped hva, lookup_duplicate hij hi hj]
  obtain ⟨e, -, -, -, hdone⟩ | hfault := useEntry_cases va isWrite (freeMapping s.draws (pageOf va)) (s.drawn 1)
  · refine .inl ⟨_, hdone, ?_⟩
    rw [frame_append_toNat]
    omega
  · exact .inr hfault

/-- Settles O8: a direct-mapped address is mapped by R75 alone, in which the TLB does not occur. -/
theorem directMappingSubtractsTheBase : Obligations.DirectMappingSubtractsTheBase := by
  intro s va isWrite tlb hva
  refine ⟨translate_of_mapsTo (.inl ⟨hva, rfl⟩), ?_⟩
  rw [BitVec.toNat_sub]
  simp only [BitVec.toNat_ofNat]
  omega

/-! ## Checks and bus (R86, R94, R95) -/

theorem memRead_of_failsWith {s : State} {va : Word} {w : Width} {c : Cause} (h : FailsWith s va w false c) :
    memRead va w s = .fault c s := by
  simp [memRead, checkAccess_of_failsWith h]

theorem memWrite_of_failsWith {s : State} {va : Word} {w : Width} {c : Cause} (v : Word) (h : FailsWith s va w true c) :
    memWrite va w v s = .fault c s := by
  simp [memWrite, checkAccess_of_failsWith h]

/-- An access that passes the checks and selects nothing ends in a Bus Timeout (R95). -/
theorem memRead_of_nothing {s : State} {va pa : Word} {w : Width} (h : GoesTo s va w false pa)
    (hs : select s.cfg pa = .nothing) :
    memRead va w s = .fault .busTimeout (s.addCycle { readCycle pa w with answered := false }) :=
  (memRead_of_goesTo h).trans (busRead_of_nothing w hs)

theorem memWrite_of_nothing {s : State} {va pa : Word} {w : Width} (v : Word) (h : GoesTo s va w true pa)
    (hs : select s.cfg pa = .nothing) :
    memWrite va w v s = .fault .busTimeout (s.addCycle { writeCycle pa w v with answered := false }) :=
  (memWrite_of_goesTo v h).trans (busWrite_of_nothing w v hs)

/-- Settles O11: the checks before the bus in the spec's order, and the bus last. -/
theorem checksAreMadeInOrder : Obligations.ChecksAreMadeInOrder := by
  intro s va v w
  exact ⟨fun _ => memRead_of_failsWith, fun _ => memWrite_of_failsWith v, fun _ => memRead_of_nothing,
    fun _ => memWrite_of_nothing v⟩

/-- The map ends at physical 0x40000000 (R62). -/
theorem select_of_aboveTheMap (cfg : Config) {pa : Word} (h : 0x40000000 ≤ pa.toNat) : select cfg pa = .nothing := by
  have hram : ¬ pa.toNat < 0x20000000 := by omega
  have hrom : ¬ pa.toNat < 0x30000000 := by omega
  have hdev : ¬ pa.toNat < 0x40000000 := by omega
  simp only [select, hram, hrom, hdev, if_false]

/-- Recording a bus cycle changes neither memory nor devices. -/
theorem sameOutside_addCycle (s : State) (c : BusCycle) : SameOutside s (s.addCycle c) :=
  ⟨fun _ => rfl, rfl, rfl, rfl, rfl⟩

/-- Settles O7: nothing is selected there, and an unanswered cycle is only recorded. -/
theorem nothingAnswersAboveTheMap : Obligations.NothingAnswersAboveTheMap := by
  intro s pa v w h
  have hs := select_of_aboveTheMap s.cfg h
  exact ⟨⟨_, busRead_of_nothing w hs, sameOutside_addCycle s _, fun _ => rfl, rfl, rfl⟩,
    ⟨_, busWrite_of_nothing w v hs, sameOutside_addCycle s _, fun _ => rfl, rfl, rfl⟩⟩

/-! ## Taking an exception (R80, R282, R290, R291) -/

/-- R282. -/
theorem Cause.toNat_eid (c : Cause) : c.eid.toNat = eidNumber c := by
  cases c with
  | interrupt line =>
    have := line.isLt
    simp only [Cause.eid, eidNumber, BitVec.toNat_setWidth]
    omega
  | _ => rfl

/-- R14, R76. -/
theorem toNat_pageOf (va : Word) : (pageOf va).toNat = va.toNat / 4096 := by
  have := va.isLt
  simp only [pageOf, BitVec.extractLsb'_toNat, Nat.shiftRight_eq_div_pow]
  omega

/-- A User Space TLB Miss is a miss below 0x80000000 (R79, R291). -/
theorem serviceOffset_eq (c : Cause) : serviceOffset c = if c.isUserMiss then 8 else 4 := by
  cases c with
  | tlbMiss va =>
    have hbit := bit31_iff va
    by_cases hva : va.toNat < 0x80000000
    · have hclear : ¬ va.getLsbD 31 = true := fun h => absurd (hbit.1 h) (by omega)
      simp only [serviceOffset, Cause.isUserMiss, hclear, hva, if_true, Bool.not_false]
    · have hset : va.getLsbD 31 = true := hbit.2 (by omega)
      simp only [serviceOffset, Cause.isUserMiss, hset, hva, if_false, Bool.not_true, Bool.false_eq_true]
  | _ => rfl

/-- The service address as a number: base and offset do not overflow (R291). -/
theorem toNat_serviceAddress (v : Bool) (c : Cause) :
    (serviceAddress v c).toNat = (if v then 0xC0000000 else 0xE0000000) + (serviceOffset c).toNat := by
  rw [serviceOffset_eq, serviceAddress]
  cases v <;> cases c.isUserMiss <;> rfl

/-- The registers of the MMU that a fault writes before it is accepted (R80). -/
theorem addressNoted_raise (c : Cause) (ret : Word) (s : State) : AddressNoted c s (raise c ret s) := by
  cases c with
  | tlbMiss va => exact ⟨by simp [noteAddress], by simp [noteAddress, toNat_pageOf]⟩
  | tlbWrite va => exact ⟨by simp [noteAddress], by simp [noteAddress, toNat_pageOf]⟩
  | tlbInvalid va => exact ⟨by simp [noteAddress], by simp [noteAddress, toNat_pageOf]⟩
  | illegalAddress va => exact ⟨by simp [noteAddress], by simp [noteAddress]⟩
  | privilegedAddress va => exact ⟨by simp [noteAddress], by simp [noteAddress]⟩
  | _ => exact ⟨by simp [noteAddress], by simp [noteAddress]⟩

/-- Register 30 alone takes the return address (R290 step 1). -/
theorem onlyReg_raise (c : Cause) (ret : Word) (s : State) : OnlyReg 30 ret s (raise c ret s) := by
  intro k
  rw [raise_reg]
  by_cases hk : k = 30#5
  · subst hk
    simp
  · simp [hk]

theorem SameBeyondCore.sameOutside {s t : State} (h : SameBeyondCore s t) : SameOutside s t :=
  ⟨fun _ => by rw [h.mem], h.dev, h.extIrq, h.cfg, h.inputs⟩

/-- An exception writes no entry of the TLB (R290). -/
theorem sameTlb_raise (c : Cause) (ret : Word) (s : State) : SameTlb s (raise c ret s) :=
  ⟨raise_entry c ret s, raise_rng c ret s⟩

/-- Settles O12: acceptance writes x[30], PSW and pc, and what was noted before it is AddressNoted. -/
theorem raisingTakesTheException : Obligations.RaisingTakesTheException := by
  intro c ret s
  refine ⟨⟨onlyReg_raise c ret s, ?_⟩, addressNoted_raise c ret s⟩
  have hbeyond := sameBeyondCore_raise c ret s
  simp only [raise_psw, Psw.accepted, Cause.toNat_eid, true_and]
  refine ⟨?_, raise_tlbIndex c ret s, raise_tlbLow c ret s, sameTlb_raise c ret s, hbeyond.sameOutside, hbeyond.bus⟩
  rw [raise_pc, toNat_serviceAddress]
  cases c with
  | tlbMiss va => rw [serviceOffset, apply_ite BitVec.toNat]; rfl
  | _ => rfl

end Sys2Proof.Machine

/-! SUPPORT. Loads, stores and fetches that end in a fault, in ROM or in a device (spec 20_memory.md R83, R95 to R100,
42_load_store.md R230 to R242). -/

namespace Sys2Proof.Machine

/-! ## The loads and stores by their width (R230) -/

/-- The stores by the width of their access. -/
abbrev Instr.IsStoreOf (i : Instr) (r x : Reg) (y : Half) (w : Width) : Prop :=
  i = .stw r x y ∧ w = .word ∨ i = .sth r x y ∧ w = .half ∨ i = .stb r x y ∧ w = .byte

/-- The loads by the width of their access. -/
abbrev Instr.IsLoadOf (i : Instr) (r x : Reg) (y : Half) (w : Width) : Prop :=
  i = .ldw r x y ∧ w = .word ∨ (i = .ldh r x y ∨ i = .ldhu r x y) ∧ w = .half ∨
    (i = .ldb r x y ∨ i = .ldbu r x y) ∧ w = .byte

/-- A store is its write, finished (R238 to R240). -/
theorem exec_store {i : Instr} {r x : Reg} {y : Half} {w : Width} (h : Instr.IsStoreOf i r x y w) (s : State) :
    exec i s = finishStore (memWrite (dataAddress x y s) w (s.reg r) s) := by
  obtain ⟨rfl, rfl⟩ | ⟨rfl, rfl⟩ | ⟨rfl, rfl⟩ := h <;> rfl

/-- A load is its read, extended and finished (R233 to R237). -/
theorem exec_load {i : Instr} {r x : Reg} {y : Half} {w : Width} (h : Instr.IsLoadOf i r x y w) (s : State) :
    ∃ extend, exec i s = finishLoad r extend (memRead (dataAddress x y s) w s) := by
  obtain ⟨rfl, rfl⟩ | ⟨rfl | rfl, rfl⟩ | ⟨rfl | rfl, rfl⟩ := h <;> exact ⟨_, rfl⟩

theorem exec_store_done {i : Instr} {r x : Reg} {y : Half} {w : Width} {s t : State} {k : Word}
    (h : Instr.IsStoreOf i r x y w) (hm : memWrite (dataAddress x y s) w (s.reg r) s = .done k t) :
    exec i s = .next t := by
  rw [exec_store h, hm]
  rfl

theorem exec_store_fault {i : Instr} {r x : Reg} {y : Half} {w : Width} {s t : State} {c : Cause}
    (h : Instr.IsStoreOf i r x y w) (hm : memWrite (dataAddress x y s) w (s.reg r) s = .fault c t) :
    exec i s = .next (raise c (t.pc - 4) t) := by
  rw [exec_store h, hm]
  rfl

theorem exec_load_done {i : Instr} {r x : Reg} {y : Half} {w : Width} {s t : State} {v : Word}
    (h : Instr.IsLoadOf i r x y w) (hm : memRead (dataAddress x y s) w s = .done v t) :
    ∃ u, exec i s = .next (t.setReg r u) := by
  obtain ⟨extend, he⟩ := exec_load h s
  exact ⟨extend v, by rw [he, hm]; rfl⟩

theorem exec_load_fault {i : Instr} {r x : Reg} {y : Half} {w : Width} {s t : State} {c : Cause}
    (h : Instr.IsLoadOf i r x y w) (hm : memRead (dataAddress x y s) w s = .fault c t) :
    exec i s = .next (raise c (t.pc - 4) t) := by
  obtain ⟨extend, he⟩ := exec_load h s
  rw [he, hm]
  rfl

/-! ## Stores and memory (R67, R99) -/

/-- A store whose checks answer an address leaves every byte outside its access there alone. -/
theorem byte_of_memWrite_done {va v k pa : Word} {w : Width} {s t u : State} (hm : memWrite va w v s = .done k t)
    (hc : checkAccess va w true s = .done pa u) (hwf : Memory.wf s.mem = true) {b : Nat}
    (hb : b < pa.toNat ∨ pa.toNat + w.bytes ≤ b) : Memory.byte t.mem b = Memory.byte s.mem b := by
  obtain ⟨-, -, -, -, pa', u', hc', -, hmem⟩ := memWrite_done hm
  cases hc.symm.trans hc'
  obtain hsame | ⟨-, hwrite⟩ := hmem
  · rw [hsame]
  · rw [hwrite]
    exact Memory.byte_write_of_outside w v hwf hb

/-- Settles O26, by whether the write is answered; a write whose checks fail is not. -/
theorem storesChangeOnlyTheirBytes : Obligations.StoresChangeOnlyTheirBytes := by
  intro s t r x y w i hwf hi hexec
  cases hm : memWrite (dataAddress x y s) w (s.reg r) s with
  | done k u =>
    cases (exec_store_done hi hm).symm.trans hexec
    refine ⟨fun pa _ hc b hb => byte_of_memWrite_done hm hc hwf hb, fun c _ hc => ?_⟩
    obtain ⟨-, -, -, -, pa, v, hc', -⟩ := memWrite_done hm
    cases hc.symm.trans hc'
  | fault c u =>
    cases (exec_store_fault hi hm).symm.trans hexec
    obtain ⟨-, -, hmem, -⟩ := memWrite_fault hm
    have hsame : SameBytes s (raise c (u.pc - 4) u) := fun b => by rw [raise_mem, hmem]
    exact ⟨fun _ _ _ b _ => hsame b, fun _ _ _ => hsame⟩

/-- A write to a ROM that ignores writes is only recorded (R99, D9). -/
theorem busWrite_of_inRom_ignored {s : State} {pa : Word} (w : Width) (v : Word) (h : inRom s.cfg pa.toNat = true)
    (hr : s.cfg.romWrite = .ignored) : busWrite pa w v s = .done 0 (s.addCycle (writeCycle pa w v)) := by
  simp only [busWrite, select_of_inRom h, hr, writeCycle]

/-- A write to a ROM that leaves writes unanswered ends in a Bus Timeout (R99, D9, log 16). -/
theorem busWrite_of_inRom_unanswered {s : State} {pa : Word} (w : Width) (v : Word) (h : inRom s.cfg pa.toNat = true)
    (hr : s.cfg.romWrite = .unanswered) :
    busWrite pa w v s = .fault .busTimeout (s.addCycle { writeCycle pa w v with answered := false }) := by
  simp only [busWrite, select_of_inRom h, hr, writeCycle]

/-- Settles O27, by the parameter romWrite. -/
theorem storesLeaveRomAlone : Obligations.StoresLeaveRomAlone := by
  intro s r x y pa w i hi hrom hgoes
  have hbus := memWrite_of_goesTo (s.reg r) hgoes
  refine ⟨fun hr => exec_store_done hi (hbus.trans (busWrite_of_inRom_ignored w _ hrom hr)), fun hr => ?_⟩
  exact ⟨_, exec_store_fault hi (hbus.trans (busWrite_of_inRom_unanswered w _ hrom hr)),
    raisingTakesTheException _ _ _⟩

/-! ## Unanswered accesses (R95, R242) -/

/-- Settles O29: the access ends in a Bus Timeout, which the load or store raises at its own address. -/
theorem unansweredAccessesTakeBusTimeout : Obligations.UnansweredAccessesTakeBusTimeout := by
  intro s r x y pa w i hs
  refine ⟨fun hi hgoes => ?_, fun hi hgoes => ?_⟩
  · exact ⟨_, exec_load_fault hi (memRead_of_nothing hgoes hs), raisingTakesTheException _ _ _⟩
  · exact ⟨_, exec_store_fault hi (memWrite_of_nothing _ hgoes hs), raisingTakesTheException _ _ _⟩

/-! ## Device accesses (R98, R100) -/

/-- An access that leaves core, memory and lines alone, and the register that a load then writes. -/
theorem SameCore.onlyRegAndDevices_setReg {s t : State} (h : SameCore s t) (he : t.extIrq = s.extIrq)
    (hm : t.mem = s.mem) (r : Reg) (v : Word) : OnlyRegAndDevices r v s (t.setReg r v) := by
  refine ⟨fun k => ?_, by simp [h.pc], by simp [h.psw], ?_, ?_, fun b => by simp [hm], by simp [he], by simp [h.cfg],
    by simp [h.inputs]⟩
  · rw [State.reg_setReg, h.reg]
  · simpa [SameMmuRegs] using h.sameMmuRegs
  · simpa [SameTlb] using h.sameTlb

/-- The same without a register: a write to x[0] has no effect (R21). -/
theorem SameCore.onlyRegAndDevices {s t : State} (h : SameCore s t) (he : t.extIrq = s.extIrq) (hm : t.mem = s.mem) :
    OnlyRegAndDevices 0#5 0 s t := by
  simpa using h.onlyRegAndDevices_setReg he hm 0#5 0

/-- A write of a device leaves memory alone. -/
theorem busWrite_mem_of_device {pa v k : Word} {w : Width} {s t : State} {d : DevReg}
    (hs : select s.cfg pa = .device d) (h : busWrite pa w v s = .done k t) : t.mem = s.mem := by
  obtain ⟨-, -, -, ⟨hram, -⟩ | ⟨-, hmem, -⟩ | ⟨_, -, hmem, -⟩⟩ := busWrite_done h
  · cases (select_of_inRam hram).symm.trans hs
  · exact hmem
  · exact hmem

/-- Settles O30: the access is the device's own, and LDW writes its register after it. -/
theorem wordAccessesReachDevices : Obligations.WordAccessesReachDevices := by
  intro s r x y pa d hs
  refine ⟨fun hgoes => ?_, fun hgoes => ?_⟩
  · have hread := busRead_of_device hs
    obtain ⟨hcore, hext, hmem, hbus, -⟩ := busRead_done hread
    refine ⟨_, _, _, ⟨_, hread, rfl, hcore.onlyRegAndDevices hext hmem, hbus⟩, ?_,
      hcore.onlyRegAndDevices_setReg hext hmem r _, by simp, by simp⟩
    simp only [exec, execLdw, memRead_of_goesTo hgoes, hread, finishLoad, id]
  · have hwrite := busWrite_of_device (s.reg r) hs
    obtain ⟨hcore, hext, hbus, -⟩ := busWrite_done hwrite
    have hframe := hcore.onlyRegAndDevices hext (busWrite_mem_of_device hs hwrite)
    exact ⟨_, _, ⟨_, _, hwrite, rfl, hframe, hbus⟩,
      exec_store_done (.inl ⟨rfl, rfl⟩) ((memWrite_of_goesTo _ hgoes).trans hwrite), hframe, rfl, hbus⟩

/-- A half-word or byte read of a device answers a free value and frees the device (R98, log 15). -/
theorem busRead_of_device_subWord {s : State} {pa : Word} {w : Width} {d : DevReg} (h : select s.cfg pa = .device d)
    (hw : w ≠ .word) :
    busRead pa w s = .done (Config.draw 32 s.draws)
      (((s.addCycle (readCycle pa w)).setDev (s.dev.upset d (s.draws + 1))).drawn drawBlock) := by
  simp only [busRead, h, hw, if_false, readCycle]

/-- A half-word or byte write of a device frees the device (R98, log 15). -/
theorem busWrite_of_device_subWord {s : State} {pa : Word} {w : Width} {d : DevReg} (v : Word)
    (h : select s.cfg pa = .device d) (hw : w ≠ .word) :
    busWrite pa w v s = .done 0
      (((s.addCycle (writeCycle pa w v)).setDev (s.dev.upset d (s.draws + 1))).drawn drawBlock) := by
  simp only [busWrite, h, hw, if_false, writeCycle]

/-- Freeing a device leaves the other devices alone; each serial line counts as one (log 15). -/
theorem sameOtherDevices_upset (d : DevReg) (n : Nat) (a : Devices) : SameOtherDevices d a (a.upset d n) := by
  cases d with
  | receiverControl second => cases second <;> rfl
  | receiverData second => cases second <;> rfl
  | senderControl second => cases second <;> rfl
  | senderData second => cases second <;> rfl
  | _ => rfl

/-- Settles O31: the bus answers the access, with the device addressed left free. -/
theorem subWordDeviceAccessesComplete : Obligations.SubWordDeviceAccessesComplete := by
  intro s r x y pa w d i hs
  refine ⟨fun hi hgoes => ?_, fun hi hgoes => ?_⟩
  · have hw : w ≠ .word := by obtain ⟨-, rfl⟩ | ⟨-, rfl⟩ := hi <;> decide
    have hread := busRead_of_device_subWord hs hw
    obtain ⟨hcore, hext, hmem, -⟩ := busRead_done hread
    obtain ⟨v, hexec⟩ := exec_load_done (.inr hi) ((memRead_of_goesTo hgoes).trans hread)
    refine ⟨_, v, hexec, hcore.onlyRegAndDevices_setReg hext hmem r v, ?_⟩
    rw [State.setReg_dev]
    exact sameOtherDevices_upset d _ s.dev
  · have hw : w ≠ .word := by obtain ⟨-, rfl⟩ | ⟨-, rfl⟩ := hi <;> decide
    have hwrite := busWrite_of_device_subWord (s.reg r) hs hw
    obtain ⟨hcore, hext, -⟩ := busWrite_done hwrite
    exact ⟨_, exec_store_done (.inr hi) ((memWrite_of_goesTo _ hgoes).trans hwrite),
      hcore.onlyRegAndDevices hext (busWrite_mem_of_device hs hwrite), sameOtherDevices_upset d _ s.dev⟩

/-! ## Fetches (R83, R286) -/

/-- A turn without the reset line fetches and executes after its first events. -/
theorem step_of_noReset {s : State} (h : s.turnInput.reset = false) :
    step s = endTurn s.turnInput (fetchAndExecute (applyEvents s.turnInput.before (beginTurn s))) := by
  simp [step, turn, h]

/-- A fetch that fails raises its fault with the unincremented pc (R83). -/
theorem fetchAndExecute_of_fault {s t : State} {c : Cause} (h : fetch s = .fault c t) :
    fetchAndExecute s = .next (raise c s.pc t) := by
  simp only [fetchAndExecute, h]

/-- The turn of a fetch that fails: the fault is taken with the address of the instruction that was not fetched. -/
theorem step_of_fetch_fault {s t u : State} {c : Cause} (hr : s.turnInput.reset = false)
    (hu : u = applyEvents s.turnInput.before (beginTurn s)) (hf : fetch u = .fault c t) :
    ∃ v, step s = endTurn s.turnInput (.next v) ∧ Takes c u.pc t v := by
  refine ⟨raise c u.pc t, ?_, raisingTakesTheException c u.pc t⟩
  rw [step_of_noReset hr, ← hu, fetchAndExecute_of_fault hf]

/-- Settles O42: a fetch is a word read at pc, whose failed check or unanswered bus cycle is the turn's fault. -/
theorem failedFetchesTakeTheirFault : Obligations.FailedFetchesTakeTheirFault := by
  intro s u hr hu
  exact ⟨fun _ hfail => step_of_fetch_fault hr hu (memRead_of_failsWith hfail),
    fun _ hgoes hs => step_of_fetch_fault hr hu (memRead_of_nothing hgoes hs)⟩

end Sys2Proof.Machine

/-! SUPPORT. The decoder and the encoder as each other's inverse, the ignored bits, and the invalid encodings (spec
30_encoding.md R121 to R133), from the formats' fields of Laws/Decode.lean. -/

namespace Sys2Proof

/-! ## Decoding what was encoded (R133) -/

/-- Format by format: the opcode selects the row, and each field of the row is read where it was laid. -/
theorem decodeWord_encode (i : Instr) : decodeWord (encode i) = .ok i := by
  cases i with
  | add r x y | sub r x y | mul r x y | mulu r x y | div r x y | divu r x y | rem r x y | remu r x y | and r x y
  | or r x y | xor r x y | xnor r x y | sll r x y | slr r x y | sar r x y =>
    rw [encode, decodeWord, opcodeOf_encRRR, fieldA_encRRR, fieldB_encRRR, fieldC_encRRR]
    rfl
  | addi r x y | subi r x y | muli r x y | mului r x y | divi r x y | divui r x y | remi r x y | remui r x y
  | andi r x y | ori r x y | xori r x y | xnori r x y | slli r x y | slri r x y | sari r x y
  | ldw r x y | ldh r x y | ldhu r x y | ldb r x y | ldbu r x y | stw r x y | sth r x y | stb r x y =>
    rw [encode, decodeWord, opcodeOf_encRRI, fieldA_encRRI, fieldB_encRRI, imm16_encRRI]
    rfl
  | ldhi r y =>
    rw [encode, decodeWord, opcodeOf_encRRI, fieldB_encRRI, imm16_encRRI]
    rfl
  | beq x y offset | bne x y offset | ble x y offset | bleu x y offset | blt x y offset | bltu x y offset
  | bge x y offset | bgeu x y offset | bgt x y offset | bgtu x y offset =>
    rw [encode, decodeWord, opcodeOf_encBR, fieldA_encBR, fieldB_encBR, imm16_encBR]
    rfl
  | j offset | jal offset =>
    rw [encode, decodeWord, opcodeOf_encJ, imm26_encJ]
    rfl
  | jr dest | jalr dest =>
    rw [encode, decodeWord, opcodeOf_encJR, fieldA_encJR]
    rfl
  | trap | rfx | tbs | tbwr | tbri | tbwi =>
    rw [encode, decodeWord, opcodeOf_encN]
    rfl
  | mvfs r z | mvts r z =>
    rw [encode, decodeWord, opcodeOf_encSR, fieldB_encSR, imm16_encSR]
    rfl

theorem encode_injective : Function.Injective encode := by
  intro i j h
  have hdecoded : Except.ok i = (Except.ok j : Except Reject Instr) := by
    rw [← decodeWord_encode i, h, decodeWord_encode j]
  exact Except.ok.inj hdecoded

theorem decode_encodeBytes (i : Instr) (rest : List Byte) : decode (encodeBytes i ++ rest) = .ok (i, rest) := by
  rw [encodeBytes, decode_bytesOfWord, decodeWord_encode]

/-- Settles O1: the word is decoded by its format, and the bytes are the word's. -/
theorem encodeThenDecodeGivesTheInstruction : Obligations.EncodeThenDecodeGivesTheInstruction := by
  intro i
  exact ⟨decodeWord_encode i, decode_encodeBytes i⟩

/-! ## What decoding can do (R130, R131) -/

/-- The opcodes that denote no instruction (R131). -/
abbrev unassignedOpcodes : List Nat := [0x1E, 0x3E, 0x3F]

/-- The two answers of the decoder: the rejection of an unassigned opcode, or an instruction whose word is the decoded
one with its ignored bits 0. -/
inductive DecodeAnswer (w : Word) : Except Reject Instr → Prop where
  | rejected (hop : (opcodeOf w).toNat ∈ unassignedOpcodes) : DecodeAnswer w (.error (.unassignedOpcode (opcodeOf w)))
  | decoded (hop : (opcodeOf w).toNat ∉ unassignedOpcodes) (i : Instr)
      (hword : encode i = w &&& careMask (opcodeOf w)) : DecodeAnswer w (.ok i)

/-- The row of an assigned opcode: its format lays the fields of a word out again under the mask of the row. -/
theorem DecodeAnswer.of_layout {w m : Word} {op : BitVec 6} {i : Instr} (layout : BitVec 6 → Word)
    (hfields : layout (opcodeOf w) = w &&& m) (hencode : encode i = layout op) (hop : (opcodeOf w).toNat = op.toNat)
    (hrow : op.toNat ∉ unassignedOpcodes ∧ careMask op = m) : DecodeAnswer w (.ok i) := by
  obtain rfl := BitVec.eq_of_toNat_eq hop
  exact .decoded hrow.1 i (by rw [hencode, hfields, hrow.2])

/-- The branches of the decoder stand in the order of the opcodes (R130) and are gathered here by their format: h_1 to
h_30 are the opcodes 0x00 to 0x1D, by turns RRR and RRI, and from LDHI on h_n is the opcode n; h_62 is all the others. -/
theorem decodeWord_answer (w : Word) : DecodeAnswer w (decodeWord w) := by
  unfold decodeWord
  split
  case h_1 hop | h_3 hop | h_5 hop | h_7 hop | h_9 hop | h_11 hop | h_13 hop | h_15 hop | h_17 hop | h_19 hop | h_21 hop
    | h_23 hop | h_25 hop | h_27 hop | h_29 hop =>
    exact .of_layout (encRRR · _ _ _) (encRRR_fields w) rfl hop (by decide)
  case h_2 hop | h_4 hop | h_6 hop | h_8 hop | h_10 hop | h_12 hop | h_14 hop | h_16 hop | h_18 hop | h_20 hop
    | h_22 hop | h_24 hop | h_26 hop | h_28 hop | h_30 hop | h_48 hop | h_49 hop | h_50 hop | h_51 hop | h_52 hop | h_53 hop
    | h_54 hop | h_55 hop =>
    exact .of_layout (encRRI · _ _ _) (encRRI_fields w) rfl hop (by decide)
  case h_31 hop => exact .of_layout (encRRI · _ _ _) (encRRI_fields_ldhi w) rfl hop (by decide)
  case h_32 hop | h_33 hop | h_34 hop | h_35 hop | h_36 hop | h_37 hop | h_38 hop | h_39 hop | h_40 hop | h_41 hop =>
    exact .of_layout (encBR · _ _ _) (encBR_fields w) rfl hop (by decide)
  case h_42 hop | h_44 hop => exact .of_layout (encJ · _) (encJ_fields w) rfl hop (by decide)
  case h_43 hop | h_45 hop => exact .of_layout (encJR · _) (encJR_fields w) rfl hop (by decide)
  case h_46 hop | h_47 hop | h_58 hop | h_59 hop | h_60 hop | h_61 hop =>
    exact .of_layout encN (encN_fields w) rfl hop (by decide)
  case h_56 hop | h_57 hop => exact .of_layout (encSR · _ _) (encSR_fields w) rfl hop (by decide)
  case h_62 =>
    have hlt : (opcodeOf w).toNat < 64 := (opcodeOf w).isLt
    refine .rejected ?_
    simp only [List.mem_cons, List.not_mem_nil, or_false]
    grind

/-- The word under the mask of its opcode is the word of what it decodes to. -/
theorem encode_of_decodeWord {w : Word} {i : Instr} (h : decodeWord w = .ok i) :
    encode i = w &&& careMask (opcodeOf w) := by
  have hanswer := decodeWord_answer w
  rw [h] at hanswer
  cases hanswer with
  | decoded _ _ hword => exact hword

/-- Settles O2. -/
theorem decodedWordKeepsAllButIgnoredBits : Obligations.DecodedWordKeepsAllButIgnoredBits :=
  fun _ _ => encode_of_decodeWord

/-- The answer to an unassigned opcode names it, and no other word has this answer. -/
theorem decodeWord_eq_error_iff {w : Word} {e : Reject} :
    decodeWord w = .error e ↔ (opcodeOf w).toNat ∈ unassignedOpcodes ∧ e = .unassignedOpcode (opcodeOf w) := by
  have hanswer := decodeWord_answer w
  generalize decodeWord w = d at hanswer
  cases hanswer with
  | rejected hop => simp only [hop, true_and, Except.error.injEq, eq_comm]
  | decoded hop i hword => simp only [hop, false_and, reduceCtorEq]

theorem decodeWord_of_unassigned {w : Word} (h : (opcodeOf w).toNat ∈ unassignedOpcodes) :
    decodeWord w = .error (.unassignedOpcode (opcodeOf w)) :=
  decodeWord_eq_error_iff.2 ⟨h, rfl⟩

theorem decodeWord_rejects_iff (w : Word) :
    (∃ e, decodeWord w = .error e) ↔ (opcodeOf w).toNat ∈ unassignedOpcodes := by
  simp only [decodeWord_eq_error_iff, exists_and_left, exists_eq, and_true]

/-- A word is valid exactly if its opcode is assigned (R131). -/
theorem decodeWord_isOk (w : Word) : (decodeWord w).isOk = decide ((opcodeOf w).toNat ∉ unassignedOpcodes) := by
  have hanswer := decodeWord_answer w
  generalize decodeWord w = d at hanswer
  cases hanswer with
  | rejected hop => exact (decide_eq_false (not_not_intro hop)).symm
  | decoded hop i hword => exact (decide_eq_true hop).symm

/-! ## Ignored bits (R124) -/

/-- No bit of the opcode is ever ignored (R121). -/
theorem opcodeOf_careMask (op : BitVec 6) : opcodeOf (careMask op) = BitVec.allOnes 6 := by
  revert op
  decide

theorem opcodeOf_and_careMask (w : Word) (op : BitVec 6) : opcodeOf (w &&& careMask op) = opcodeOf w := by
  have hmask := opcodeOf_careMask op
  unfold opcodeOf at *
  rw [BitVec.extractLsb'_and, hmask, BitVec.and_allOnes]

/-- Words that agree under their masks have one opcode; what they decode to has one word, so it is one instruction. -/
theorem decodeWord_congr {w v : Word} (h : w &&& careMask (opcodeOf w) = v &&& careMask (opcodeOf w)) :
    decodeWord w = decodeWord v := by
  have hop : opcodeOf w = opcodeOf v := by
    rw [← opcodeOf_and_careMask w (opcodeOf w), h, opcodeOf_and_careMask]
  rw [hop] at h
  cases hw : decodeWord w with
  | error e =>
    rw [decodeWord_eq_error_iff, hop, ← decodeWord_eq_error_iff] at hw
    exact hw.symm
  | ok i =>
    cases hv : decodeWord v with
    | error e =>
      rw [decodeWord_eq_error_iff, ← hop, ← decodeWord_eq_error_iff, hw] at hv
      cases hv
    | ok j =>
      have hwords : encode i = encode j := by rw [encode_of_decodeWord hw, hop, h, encode_of_decodeWord hv]
      rw [encode_injective hwords]

/-- Settles O5: the decoder's answer to each of the ten words. -/
theorem wordsOfTheSpecDecode : Obligations.WordsOfTheSpecDecode := by
  unfold Obligations.WordsOfTheSpecDecode
  decide

end Sys2Proof

namespace Sys2Proof.Machine

/-- A shift immediate counts by its five low bits alone (R125, R189). -/
theorem countOfImm_congr {y z : Half} (h : y.toNat % 32 = z.toNat % 32) : countOfImm y = countOfImm z := by
  rw [countOfImm_eq, countOfImm_eq, h]

/-- Settles O3: ignored bits, validity by the opcode, and the shift immediates. -/
theorem ignoredBitsHaveNoEffect : Obligations.IgnoredBitsHaveNoEffect := by
  refine ⟨fun w v => decodeWord_congr, fun w v hop => ?_, fun r x y z s hyz => ?_⟩
  · rw [decodeWord_isOk, decodeWord_isOk, hop]
  · simp only [exec, execSlli, execSlri, execSari, countOfImm_congr hyz, and_self]

/-! ## Invalid encodings (R131, R285) -/

/-- Raising a fault sets pc, whatever it was (R290 step 5). -/
theorem raise_setPc (c : Cause) (ret target : Word) (s : State) : raise c ret (s.setPc target) = raise c ret s := by
  cases c <;> rfl

/-- Fetching and executing a word that the decoder rejects is the Illegal Instruction Fault at its address. -/
theorem fetchAndExecute_of_unassigned {s u : State} {w : Word} (hf : fetch s = .done w u)
    (hop : (opcodeOf w).toNat ∈ unassignedOpcodes) :
    fetchAndExecute s = .next (raise .illegalInstruction s.pc u) := by
  simp only [fetchAndExecute, hf, decodeWord_of_unassigned hop, raise_setPc]

/-- The only instructions that are no valid encodings are the moves of a special register that does not exist. -/
theorem wellFormed_eq_false_iff (i : Instr) :
    WellFormed i = false ↔ ∃ r z, 4 < z.toNat ∧ (i = .mvfs r z ∨ i = .mvts r z) := by
  cases i with
  | mvfs r z | mvts r z => simp [WellFormed, validSpecial]
  | _ => simp [WellFormed]

theorem State.special_eq_none (s : State) {z : Half} (hz : 4 < z.toNat) : s.special z = none := by
  rw [← Option.isNone_iff_eq_none, ← Option.not_isSome, s.special_isSome]
  simp [validSpecial, hz]

theorem State.setSpecial_eq_none (s : State) {z : Half} (v : Word) (hz : 4 < z.toNat) : s.setSpecial z v = none := by
  rw [← Option.isNone_iff_eq_none, ← Option.not_isSome, s.setSpecial_isSome]
  simp [validSpecial, hz]

/-- A privileged instruction whose own text is the Illegal Instruction Fault takes that of its privilege first (R131,
R250). -/
theorem privileged_of_illegal {body : State → Result} {s : State} (h : body s = raiseFault .illegalInstruction s) :
    privileged body s = raiseFault (if s.psw.uc then .privilegedInstruction else .illegalInstruction) s := by
  cases hu : s.psw.uc
  · exact (privileged_kernel body hu).trans h
  · exact privileged_user body hu

/-- An instruction that is no valid encoding takes one of two faults, by the mode. -/
theorem exec_of_not_wellFormed {i : Instr} (h : WellFormed i = false) (s : State) :
    exec i s = raiseFault (if s.psw.uc then .privilegedInstruction else .illegalInstruction) s := by
  obtain ⟨r, z, hz, rfl | rfl⟩ := (wellFormed_eq_false_iff i).1 h
  · rw [exec, execMvfs]
    exact privileged_of_illegal (by simp only [s.special_eq_none hz])
  · rw [exec, execMvts]
    exact privileged_of_illegal (by simp only [s.setSpecial_eq_none _ hz])

/-- Settles O4: each clause is a fault raised, which takes its exception (O12) and, noting no address, no free value. -/
theorem invalidEncodingsTakeIllegalInstruction : Obligations.InvalidEncodingsTakeIllegalInstruction := by
  refine ⟨decodeWord_rejects_iff, fun s u w hf hop => ?_, fun s u v w hr hu hf hop => ?_, wellFormed_eq_false_iff,
    fun i s hi => ?_⟩
  · exact ⟨_, fetchAndExecute_of_unassigned hf hop, raisingTakesTheException _ _ _, by simp [noteAddress]⟩
  · obtain ⟨-, -, -, hpc⟩ := atFetch_frame s
    rw [← hu] at hpc
    have hturn := fetchAndExecute_of_unassigned hf hop
    rw [hpc] at hturn
    exact ⟨_, by rw [step_of_noReset hr, ← hu, hturn], raisingTakesTheException _ _ _, by simp [noteAddress]⟩
  · refine ⟨_, exec_of_not_wellFormed hi s, ?_, raisingTakesTheException _ _ _⟩
    cases s.psw.uc <;> simp [noteAddress]

end Sys2Proof.Machine

/-! SUPPORT. What the 31 computation instructions write: the frame of a register write, the values as integers and bit by
bit, and quotient and remainder from their defining equation (spec 40_computation.md R160 to R194). -/

namespace Sys2Proof.Machine

/-! ## The end of a computation (R160, R163) -/

/-- A register write leaves everything but its register alone. -/
theorem computes_setReg (r : Reg) (v : Word) (s : State) : Computes r v s (s.setReg r v) := by
  have hbeyond := sameBeyondCore_setReg r v s
  refine ⟨fun k => s.reg_setReg r k v, s.setReg_pc r v, s.setReg_psw r v, ?_, ?_, hbeyond.sameOutside, hbeyond.bus,
    s.setReg_draws r v⟩
  · exact ⟨s.setReg_tlbIndex r v, s.setReg_tlbHigh r v, s.setReg_tlbLow r v, s.setReg_tlbBad r v⟩
  · exact ⟨s.setReg_entry r v, s.setReg_rng r v⟩

/-- An answer that is the end of a computation computes its value, of which any property of that value holds. -/
theorem exists_computes_of_writeResult {R : Result} {r : Reg} {v : Word} {s : State} {P : Word → Prop}
    (hR : R = writeResult r v s) (hv : P v) : ∃ t v, R = .next t ∧ Computes r v s t ∧ P v :=
  ⟨_, v, hR, computes_setReg r v s, hv⟩

/-- A division whose divisor test fails computes its value. -/
theorem writeQuotient_computes {zero : Bool} (hz : zero = false) (r : Reg) (v : Word) (s : State) :
    ∃ t, writeQuotient zero r v s = .next t ∧ Computes r v s t := by
  subst hz
  exact ⟨_, writeQuotient_of_nonzero r v s, computes_setReg r v s⟩

/-- A division by zero is the fault, whatever its value would be. -/
theorem writeQuotient_of_divisor_zero {n : Nat} {d : BitVec n} (hd : d = 0) (r : Reg) (v : Word) (s : State) :
    writeQuotient (d == 0) r v s = .next (raise .divisionByZero (s.pc - 4) s) := by
  subst hd
  rw [beq_self_eq_true, writeQuotient_of_zero]

/-- The divisor test fails on a divisor whose signed value is not 0. -/
theorem beq_zero_of_toInt_ne_zero {n : Nat} {d : BitVec n} (h : d.toInt ≠ 0) : (d == 0) = false :=
  beq_false_of_ne fun hd => h (by simp [hd])

/-- The divisor test fails on a divisor whose unsigned value is positive. -/
theorem beq_zero_of_toNat_pos {n : Nat} {d : BitVec n} (h : 0 < d.toNat) : (d == 0) = false :=
  beq_false_of_ne fun hd => h.ne' (by simp [hd])

/-! ## Sums, differences and products (R164 to R171) -/

/-- The sum of two words is the exact sum of their signed values, truncated. -/
theorem add_eq_ofInt (a b : Word) : a + b = BitVec.ofInt 32 (a.toInt + b.toInt) := by
  rw [BitVec.ofInt_add, BitVec.ofInt_toInt, BitVec.ofInt_toInt]

/-- The difference of two words is the exact difference of their signed values, truncated. -/
theorem sub_eq_ofInt (a b : Word) : a - b = BitVec.ofInt 32 (a.toInt - b.toInt) := by
  rw [Int.sub_eq_add_neg, BitVec.ofInt_add, BitVec.ofInt_neg, BitVec.ofInt_toInt, BitVec.ofInt_toInt,
    BitVec.sub_eq_add_neg]

/-- Signed and unsigned products agree in their 32 low bits: both are the product of words (R161). -/
theorem mulSigned_eq_mulUnsigned (a b : Word) : mulSigned a b = mulUnsigned a b := by
  calc mulSigned a b = a * b := by rw [mulSigned, BitVec.ofInt_mul, BitVec.ofInt_toInt, BitVec.ofInt_toInt]
    _ = mulUnsigned a b := by simp [mulUnsigned, BitVec.ofNat_mul]

theorem toNat_mulUnsigned (a b : Word) : (mulUnsigned a b).toNat = a.toNat * b.toNat % 2 ^ 32 :=
  BitVec.toNat_ofNat _ _

/-- Settles O14: each instruction is a register write, and its value is the exact integer result, truncated. -/
theorem sumsAndDifferencesAreTruncated : Obligations.SumsAndDifferencesAreTruncated := by
  intro s r x
  refine ⟨fun y => ?add, fun y => ?addi, fun y => ?sub, fun y => ?subi⟩
  case add => exact exists_computes_of_writeResult rfl (add_eq_ofInt _ _)
  case addi => exact exists_computes_of_writeResult rfl (toInt_sext y ▸ add_eq_ofInt _ (sext y))
  case sub => exact exists_computes_of_writeResult rfl (sub_eq_ofInt _ _)
  case subi => exact exists_computes_of_writeResult rfl (toInt_sext y ▸ sub_eq_ofInt _ (sext y))

/-- Settles O15: MUL and MULU write the same word, whose value is the signed and the unsigned product. -/
theorem productsAreTruncated : Obligations.ProductsAreTruncated := by
  intro s r x
  refine ⟨fun y => ?mul, fun y => ?muli, fun y => ?mului⟩
  case mul =>
    have hagree := mulSigned_eq_mulUnsigned (s.reg x) (s.reg y)
    refine ⟨_, _, rfl, ?_, computes_setReg r _ s, ?_, rfl⟩
    · rw [hagree]
      rfl
    · rw [hagree, toNat_mulUnsigned]
  case muli => exact exists_computes_of_writeResult rfl (by rw [mulSigned, toInt_sext])
  case mului => exact exists_computes_of_writeResult rfl (by rw [toNat_mulUnsigned, toNat_zext])

/-! ## Quotient and remainder (R162, R172 to R179) -/

/-- Division rounded toward zero is the one whose remainder has the sign of the dividend (D1). -/
theorem tdiv_tmod_of_dividend_sign {a b q m : Int} (heq : a = q * b + m) (hlt : m.natAbs < b.natAbs)
    (hsign : 0 ≤ a * m) : a.tdiv b = q ∧ a.tmod b = m := by
  have hb : b ≠ 0 := by omega
  have heq' : m + b * q = a := by rw [heq, Int.mul_comm, Int.add_comm]
  obtain ⟨ha, hm⟩ | ⟨ha, hm⟩ := mul_nonneg_iff.1 hsign
  · exact (Int.tdiv_tmod_unique ha hb).2 ⟨heq', hm, by omega⟩
  · exact (Int.tdiv_tmod_unique' ha hb).2 ⟨heq', by omega, hm⟩

/-- Division rounded down is the one whose remainder has the sign of the divisor (log 12). -/
theorem fdiv_fmod_of_divisor_sign {a b q m : Int} (heq : a = q * b + m) (hlt : m.natAbs < b.natAbs)
    (hsign : 0 ≤ b * m) : a.fdiv b = q ∧ a.fmod b = m := by
  have hb : b ≠ 0 := by omega
  have heq' : m + b * q = a := by rw [heq, Int.mul_comm, Int.add_comm]
  obtain ⟨hb', hm⟩ | ⟨hb', hm⟩ := mul_nonneg_iff.1 hsign
  · exact (Int.fdiv_fmod_unique (by omega)).2 ⟨heq', hm, by omega⟩
  · exact (Int.fdiv_fmod_unique' (by omega)).2 ⟨heq', by omega, hm⟩

/-- The signed quotient and remainder of two words, by the rounding. -/
theorem divSigned_remSigned_of_eq {mode : SdivRounding} {u d : Word} {q m : Int}
    (heq : u.toInt = q * d.toInt + m) (hlt : m.natAbs < d.toInt.natAbs)
    (htrunc : mode = .trunc → 0 ≤ u.toInt * m) (hfloor : mode = .floor → 0 ≤ d.toInt * m) :
    divSigned mode u d = BitVec.ofInt 32 q ∧ remSigned mode u d = BitVec.ofInt 32 m := by
  cases mode with
  | trunc =>
    obtain ⟨hq, hm⟩ := tdiv_tmod_of_dividend_sign heq hlt (htrunc rfl)
    exact ⟨by rw [divSigned, hq], by rw [remSigned, hm]⟩
  | floor =>
    obtain ⟨hq, hm⟩ := fdiv_fmod_of_divisor_sign heq hlt (hfloor rfl)
    exact ⟨by rw [divSigned, hq], by rw [remSigned, hm]⟩

/-- The unsigned quotient and remainder of two words. -/
theorem divUnsigned_remUnsigned_of_eq {u d : Word} {q m : Nat} (heq : u.toNat = q * d.toNat + m) (hlt : m < d.toNat) :
    divUnsigned u d = BitVec.ofNat 32 q ∧ remUnsigned u d = BitVec.ofNat 32 m := by
  have heq' : m + d.toNat * q = u.toNat := by rw [heq, Nat.mul_comm, Nat.add_comm]
  obtain ⟨hq, hm⟩ := (Nat.div_mod_unique (Nat.zero_lt_of_lt hlt)).2 ⟨heq', hlt⟩
  exact ⟨by rw [divUnsigned, hq], by rw [remUnsigned, hm]⟩

/-- The two signed divisions of a word by a divisor that passes its test write quotient and remainder. -/
theorem signedDivision_computes {zero : Bool} {s : State} {u d : Word} {q m : Int} (hz : zero = false) (r : Reg)
    (heq : u.toInt = q * d.toInt + m) (hlt : m.natAbs < d.toInt.natAbs)
    (htrunc : s.cfg.sdivRounding = .trunc → 0 ≤ u.toInt * m)
    (hfloor : s.cfg.sdivRounding = .floor → 0 ≤ d.toInt * m) :
    (∃ t, writeQuotient zero r (divSigned s.cfg.sdivRounding u d) s = .next t ∧ Computes r (BitVec.ofInt 32 q) s t) ∧
    (∃ t, writeQuotient zero r (remSigned s.cfg.sdivRounding u d) s = .next t ∧ Computes r (BitVec.ofInt 32 m) s t) := by
  obtain ⟨hquot, hrem⟩ := divSigned_remSigned_of_eq heq hlt htrunc hfloor
  rw [hquot, hrem]
  exact ⟨writeQuotient_computes hz r _ s, writeQuotient_computes hz r _ s⟩

/-- The two unsigned divisions of a word by a divisor that passes its test write quotient and remainder. -/
theorem unsignedDivision_computes {zero : Bool} {u d : Word} {q m : Nat} (hz : zero = false) (r : Reg) (s : State)
    (heq : u.toNat = q * d.toNat + m) (hlt : m < d.toNat) :
    (∃ t, writeQuotient zero r (divUnsigned u d) s = .next t ∧ Computes r (BitVec.ofNat 32 q) s t) ∧
    (∃ t, writeQuotient zero r (remUnsigned u d) s = .next t ∧ Computes r (BitVec.ofNat 32 m) s t) := by
  obtain ⟨hquot, hrem⟩ := divUnsigned_remUnsigned_of_eq heq hlt
  rw [hquot, hrem]
  exact ⟨writeQuotient_computes hz r _ s, writeQuotient_computes hz r _ s⟩

/-- Settles O16: the divisor is a register or the word of a sign-extended immediate. -/
theorem signedDivisionGivesQuotientAndRemainder : Obligations.SignedDivisionGivesQuotientAndRemainder := by
  rintro s r x _ b q m hb rfl heq hlt htrunc hfloor
  refine ⟨fun y hy => ?register, fun y hy => ?immediate⟩
  case register =>
    subst hy
    exact signedDivision_computes (beq_zero_of_toInt_ne_zero hb) r heq hlt htrunc hfloor
  case immediate =>
    have hnonzero := beq_zero_of_toInt_ne_zero (hy.trans_ne hb)
    rw [← toInt_sext] at hy
    subst hy
    exact signedDivision_computes hnonzero r heq hlt htrunc hfloor

/-- Settles O17: as O16, with the immediates zero-extended. -/
theorem unsignedDivisionGivesQuotientAndRemainder : Obligations.UnsignedDivisionGivesQuotientAndRemainder := by
  intro s r x b q m heq hlt
  have hpos : 0 < b := Nat.zero_lt_of_lt hlt
  refine ⟨fun y hy => ?register, fun y hy => ?immediate⟩
  case register =>
    subst hy
    exact unsignedDivision_computes (beq_zero_of_toNat_pos hpos) r s heq hlt
  case immediate =>
    have hnonzero := beq_zero_of_toNat_pos (hpos.trans_eq hy.symm)
    rw [← toNat_zext] at hy
    subst hy
    exact unsignedDivision_computes hnonzero r s heq hlt

/-- Settles O18: the next state is the fault raised (O12), which notes no address and so uses no free value. -/
theorem divisionByZeroFaults : Obligations.DivisionByZeroFaults := by
  intro s r x
  refine ⟨_, raisingTakesTheException _ _ s, by simp [noteAddress], fun y hy => ?register, ?immediate⟩
  case register =>
    have hzero := writeQuotient_of_divisor_zero hy r (s := s)
    exact ⟨hzero _, hzero _, hzero _, hzero _⟩
  case immediate =>
    -- a variable in place of the literal, so that the divisor test is not evaluated
    generalize hy : (0 : Half) = y
    have hzero := writeQuotient_of_divisor_zero hy.symm r (s := s)
    exact ⟨hzero _, hzero _, hzero _, hzero _⟩

/-! ## Logic and shifts, bit by bit (R180 to R193) -/

/-- A zero-extended immediate has zeros in bits 31..16 (R125). -/
theorem getLsbD_zext (y : Half) {i : Nat} (hi : i < 32) : (zext y).getLsbD i = (decide (i < 16) && y.getLsbD i) := by
  by_cases h : i < 16
  · simp [zext, hi, h]
  · simp [zext, h, BitVec.getLsbD_of_ge y i (by omega)]

theorem getLsbD_xnor (a b : Word) {i : Nat} (hi : i < 32) :
    (xnor a b).getLsbD i = !Bool.xor (a.getLsbD i) (b.getLsbD i) := by
  simp [xnor, hi]

theorem getLsbD_shiftLeft (a : Word) (n : Nat) {i : Nat} (hi : i < 32) :
    (shiftLeft a n).getLsbD i = if n ≤ i then a.getLsbD (i - n) else false := by
  rw [shiftLeft, BitVec.getLsbD_shiftLeft]
  by_cases h : n ≤ i
  · simp [hi, h, Nat.not_lt_of_le h]
  · simp [h, Nat.lt_of_not_le h]

theorem getLsbD_shiftRight (a : Word) (n i : Nat) :
    (shiftRight a n).getLsbD i = if i + n < 32 then a.getLsbD (i + n) else false := by
  rw [shiftRight, BitVec.getLsbD_ushiftRight, Nat.add_comm]
  split
  · rfl
  · next h => exact BitVec.getLsbD_of_ge a _ (by omega)

theorem getLsbD_shiftArith (a : Word) (n : Nat) {i : Nat} (hi : i < 32) :
    (shiftArith a n).getLsbD i = if i + n < 32 then a.getLsbD (i + n) else a.getLsbD 31 := by
  rw [shiftArith, BitVec.getLsbD_sshiftRight, BitVec.msb_eq_getLsbD_last, Nat.add_comm]
  simp [Nat.not_le_of_lt hi]

/-- Settles O19: each instruction is a register write, of the operation on every bit. -/
theorem logicIsBitwise : Obligations.LogicIsBitwise := by
  intro s r x
  refine ⟨fun y => ⟨?and, ?or, ?xor, ?xnor⟩, fun y => ⟨?andi, ?ori, ?xori, ?xnori⟩⟩
  case and => exact exists_computes_of_writeResult rfl fun _ _ => BitVec.getLsbD_and
  case or => exact exists_computes_of_writeResult rfl fun _ _ => BitVec.getLsbD_or
  case xor => exact exists_computes_of_writeResult rfl fun _ _ => BitVec.getLsbD_xor
  case xnor => exact exists_computes_of_writeResult rfl fun _ hi => getLsbD_xnor _ _ hi
  case andi => exact exists_computes_of_writeResult rfl fun _ hi => by rw [BitVec.getLsbD_and, getLsbD_zext y hi]
  case ori => exact exists_computes_of_writeResult rfl fun _ hi => by rw [BitVec.getLsbD_or, getLsbD_zext y hi]
  case xori => exact exists_computes_of_writeResult rfl fun _ hi => by rw [BitVec.getLsbD_xor, getLsbD_zext y hi]
  case xnori => exact exists_computes_of_writeResult rfl fun _ hi => by rw [getLsbD_xnor _ _ hi, getLsbD_zext y hi]

/-- Settles O20: the count of either operand form is its value modulo 32. -/
theorem shiftsMoveBitsByTheLowFiveBits : Obligations.ShiftsMoveBitsByTheLowFiveBits := by
  intro s r x
  refine ⟨fun y => ?register, fun y => ?immediate⟩
  case register =>
    rw [← countOfWord_eq]
    exact ⟨exists_computes_of_writeResult rfl fun _ hi => getLsbD_shiftLeft _ _ hi,
      exists_computes_of_writeResult rfl fun i _ => getLsbD_shiftRight _ _ i,
      exists_computes_of_writeResult rfl fun _ hi => getLsbD_shiftArith _ _ hi⟩
  case immediate =>
    rw [← countOfImm_eq]
    exact ⟨exists_computes_of_writeResult rfl fun _ hi => getLsbD_shiftLeft _ _ hi,
      exists_computes_of_writeResult rfl fun i _ => getLsbD_shiftRight _ _ i,
      exists_computes_of_writeResult rfl fun _ hi => getLsbD_shiftArith _ _ hi⟩

/-! ## Constants (R125, R194) -/

/-- An upper and a zero-extended immediate lie in different halves, so OR puts them side by side. -/
theorem upper_or_zext (high low : Half) : upper high ||| zext low = high ++ low := by
  apply BitVec.eq_of_getLsbD_eq
  intro i hi
  rw [BitVec.getLsbD_or, getLsbD_zext low hi, upper, BitVec.getLsbD_append, BitVec.getLsbD_append]
  by_cases h : i < 16 <;> simp [h]

/-- Settles O21: ORI reads the upper half that LDHI left in the same register. -/
theorem ldhiAndOriBuildEveryConstant : Obligations.LdhiAndOriBuildEveryConstant := by
  intro s r y
  refine ⟨exists_computes_of_writeResult rfl (toNat_upper y), fun c hr => ⟨_, _, rfl, rfl, ?_⟩⟩
  rw [State.reg_setReg, State.reg_setReg, if_pos ⟨rfl, hr⟩, if_pos ⟨rfl, hr⟩, upper_or_zext]
  exact (BitVec.extractLsb'_append_extractLsb'_eq_extractLsb' (start₁ := 0) rfl).trans BitVec.extractLsb'_eq_self

end Sys2Proof.Machine

/-! SUPPORT. What the 14 control flow instructions write: the frame of a write of pc, the two outcomes of a branch from its
condition, and the link (spec 41_control_flow.md R200 to R216). -/

namespace Sys2Proof.Machine

/-! ## Writes of pc and of the link register (R200, R213 to R216) -/

/-- Writing pc keeps the frame of an instruction that may change pc. -/
theorem SameButRegsAndPc.setPc {s t : State} (h : SameButRegsAndPc s t) (target : Word) :
    SameButRegsAndPc s (t.setPc target) := by
  obtain ⟨hpsw, hmmu, htlb, houtside, hquiet⟩ := h
  exact ⟨hpsw, hmmu, htlb, houtside, hquiet⟩

theorem SameButRegsAndPc.refl (s : State) : SameButRegsAndPc s s :=
  ⟨rfl, ⟨rfl, rfl, rfl, rfl⟩, ⟨fun _ => rfl, rfl⟩, ⟨fun _ => rfl, rfl, rfl, rfl, rfl⟩, ⟨rfl, rfl⟩⟩

/-- A write of pc is a jump. -/
theorem jumpsTo_setPc (target : Word) (s : State) : JumpsTo target s (s.setPc target) :=
  ⟨s.setPc_reg target, s.setPc_pc target, (SameButRegsAndPc.refl s).setPc target⟩

/-- The link and then pc: x[31] takes the old pc, pc takes the target, and everything else is as before (R213, R214). -/
theorem link_frame (target : Word) (s : State) :
    OnlyReg 31 s.pc s ((s.setReg 31 s.pc).setPc target) ∧ ((s.setReg 31 s.pc).setPc target).pc = target ∧
      SameButRegsAndPc s ((s.setReg 31 s.pc).setPc target) := by
  obtain ⟨honly, -, hframe⟩ := computes_setReg 31 s.pc s
  exact ⟨fun k => (State.setPc_reg _ target k).trans (honly k), State.setPc_pc _ target, hframe.setPc target⟩

/-! ## Branches (R203 to R212) -/

/-- A branch taken when p holds. -/
theorem branch_of_iff {taken : Bool} {p : Prop} [Decidable p] (h : taken = true ↔ p) (offset : Half) (s : State) :
    branch taken offset s = .next (if p then s.setPc (branchTarget s.pc offset) else s) := by
  simp only [branch, h]

/-- A branch taken when p fails. -/
theorem branch_of_iff_not {taken : Bool} {p : Prop} [Decidable p] (h : taken = true ↔ ¬p) (offset : Half) (s : State) :
    branch taken offset s = .next (if p then s else s.setPc (branchTarget s.pc offset)) := by
  rw [branch_of_iff h, ite_not]

/-- Settles O22: all ten have one target, and BNE, BGE and BGT go by the negations of =, < and ≤ (signed or unsigned). -/
theorem branchesFollowTheirConditions : Obligations.BranchesFollowTheirConditions := by
  intro s x y offset a b
  refine ⟨s.setPc (branchTarget s.pc offset), ?target, ?beq, ?bne, ?ble, ?bleu, ?blt, ?bltu, ?bge, ?bgeu, ?bgt, ?bgtu⟩
  case target =>
    rw [← branchTarget_eq]
    exact jumpsTo_setPc _ s
  case beq => exact branch_of_iff (condEq_iff a b) offset s
  case bne => exact branch_of_iff_not (condNe_iff a b) offset s
  case ble => exact branch_of_iff (condLe_iff a b) offset s
  case bleu => exact branch_of_iff (condLeU_iff a b) offset s
  case blt => exact branch_of_iff (condLt_iff a b) offset s
  case bltu => exact branch_of_iff (condLtU_iff a b) offset s
  case bge => exact branch_of_iff_not ((condGe_iff a b).trans not_lt.symm) offset s
  case bgeu => exact branch_of_iff_not ((condGeU_iff a b).trans not_lt.symm) offset s
  case bgt => exact branch_of_iff_not ((condGt_iff a b).trans not_le.symm) offset s
  case bgtu => exact branch_of_iff_not ((condGtU_iff a b).trans not_le.symm) offset s

/-! ## Jumps (R213 to R216) -/

/-- Settles O23: each jump writes pc, and the linking ones x[31] with it; the target of JALR is the register before that. -/
theorem jumpsWriteThePcAndTheLink : Obligations.JumpsWriteThePcAndTheLink := by
  intro s
  refine ⟨fun offset => ?immediate, fun dest => ⟨?jr, ?jalr⟩⟩
  case immediate =>
    rw [← jumpTarget_eq]
    exact ⟨⟨_, rfl, jumpsTo_setPc _ s⟩, ⟨_, rfl, link_frame _ s⟩⟩
  case jr => exact ⟨_, rfl, jumpsTo_setPc _ s⟩
  case jalr => exact ⟨_, execJalr_eq dest s, link_frame _ s⟩

end Sys2Proof.Machine

/-! SUPPORT. Loads of RAM and ROM, stores to RAM, and the accesses that fail a check (spec 42_load_store.md R231 to R242):
the bytes of memory as the number that R66 reads from them. -/

namespace Sys2Proof.Machine

/-! ## Bytes as a big-endian number (R9, R66) -/

/-- A byte appended below is the next digit in base 256. -/
theorem toNat_append_byte {n : Nat} (a : BitVec n) (b : Byte) : (a ++ b).toNat = a.toNat * 256 + b.toNat := by
  rw [BitVec.toNat_append, ← Nat.shiftLeft_add_eq_or_of_lt b.isLt, Nat.shiftLeft_eq]

/-- A number of n bytes is below 256 ^ n. -/
theorem bigEndian_lt (s : State) (a n : Nat) : bigEndian s a n < 256 ^ n := by
  induction n with
  | zero => exact Nat.one_pos
  | succ n ih =>
    have hbyte := (Memory.byte s.mem (a + n)).isLt
    rw [bigEndian, Nat.pow_succ]
    omega

/-- A read answers the big-endian number of its bytes, with zeros above a half-word and a byte (R66, R92). -/
theorem toNat_read (s : State) (a : Nat) (w : Width) : (Memory.read s.mem a w).toNat = bigEndian s a w.bytes := by
  cases w with
  | byte =>
    rw [Memory.read_byte, BitVec.toNat_setWidth_of_le (by decide)]
    simp [Width.bytes, bigEndian]
  | half =>
    rw [Memory.read_half, BitVec.toNat_setWidth_of_le (by decide), toNat_append_byte]
    simp [Width.bytes, bigEndian]
  | word =>
    simp only [Memory.read, Cells.word, toNat_append_byte]
    simp [Width.bytes, bigEndian, Memory.byte]

/-- What a write stores at its address is read back there, truncated to its width (R67). -/
theorem toNat_read_write {m : Memory} (a : Nat) (w : Width) (v : Word) (hm : Memory.wf m = true) :
    (Memory.read (Memory.write m a w v) a w).toNat = v.toNat % 256 ^ w.bytes := by
  obtain ⟨⟨-, -, -, -, -, -, hword⟩, ⟨-, -, hhalf⟩, ⟨-, hbyte⟩, -⟩ := storedBytesAreSeenAtEveryWidth m a v hm
  cases w with
  | byte =>
    rw [hbyte, BitVec.toNat_setWidth_of_le (by decide)]
    exact BitVec.extractLsb'_toNat 0 8 v
  | half =>
    rw [hhalf, BitVec.toNat_setWidth_of_le (by decide)]
    exact BitVec.extractLsb'_toNat 0 16 v
  | word =>
    rw [hword]
    exact (Nat.mod_eq_of_lt v.isLt).symm

/-- The bytes that a write leaves at its address are the low bytes of its value (R66, R93). -/
theorem bigEndian_of_write {s t : State} {a : Nat} {w : Width} {v : Word} (hm : Memory.wf s.mem = true)
    (ht : t.mem = Memory.write s.mem a w v) : bigEndian t a w.bytes = v.toNat % 256 ^ w.bytes := by
  rw [← toNat_read, ht, toNat_read_write a w v hm]

/-! ## The loads of RAM and ROM (R233 to R237) -/

/-- A word response is the number of its bytes (R66, R233). -/
theorem word_read (s : State) (a : Nat) : Memory.read s.mem a .word = BitVec.ofNat 32 (bigEndian s a 4) := by
  have hread := toNat_read s a .word
  rw [Width.bytes] at hread
  rw [← hread, BitVec.ofNat_toNat, BitVec.setWidth_eq]

/-- The low k bits of a response are the number of its bytes in k bits. -/
theorem extractLsb'_read (s : State) (a : Nat) (w : Width) (k : Nat) :
    (Memory.read s.mem a w).extractLsb' 0 k = BitVec.ofNat k (bigEndian s a w.bytes) :=
  BitVec.eq_of_toNat_eq (by rw [BitVec.extractLsb'_toNat, toNat_read, Nat.shiftRight_zero, BitVec.toNat_ofNat])

/-- LDH sign-extends the number of two bytes (R234). -/
theorem signHalf_read (s : State) (a : Nat) :
    signHalf (Memory.read s.mem a .half) = (BitVec.ofNat 16 (bigEndian s a 2)).signExtend 32 := by
  rw [signHalf, extractLsb'_read, Width.bytes]

/-- LDB sign-extends the number of one byte (R236). -/
theorem signByte_read (s : State) (a : Nat) :
    signByte (Memory.read s.mem a .byte) = (BitVec.ofNat 8 (bigEndian s a 1)).signExtend 32 := by
  rw [signByte, extractLsb'_read, Width.bytes]

/-- A number that fits in k bits keeps its value in any other number of bits. -/
theorem setWidth_ofNat_of_lt {b k : Nat} (h : b < 2 ^ k) (n : Nat) : (BitVec.ofNat k b).setWidth n = BitVec.ofNat n b :=
  BitVec.eq_of_toNat_eq (by rw [BitVec.toNat_setWidth, BitVec.toNat_ofNat, BitVec.toNat_ofNat, Nat.mod_eq_of_lt h])

/-- LDHU answers the number of two bytes (R235). -/
theorem zeroHalf_read (s : State) (a : Nat) :
    zeroHalf (Memory.read s.mem a .half) = BitVec.ofNat 32 (bigEndian s a 2) := by
  rw [zeroHalf, extractLsb'_read, Width.bytes, setWidth_ofNat_of_lt (bigEndian_lt s a 2)]

/-- LDBU answers the number of one byte (R237). -/
theorem zeroByte_read (s : State) (a : Nat) :
    zeroByte (Memory.read s.mem a .byte) = BitVec.ofNat 32 (bigEndian s a 1) := by
  rw [zeroByte, extractLsb'_read, Width.bytes, setWidth_ofNat_of_lt (bigEndian_lt s a 1)]

/-- A load of RAM or ROM records its bus cycle and writes its register, and does nothing else (R92, R242). -/
theorem loads_setReg_addCycle (r : Reg) (v : Word) (c : BusCycle) (s : State) :
    Loads r v c s ((s.addCycle c).setReg r v) := by
  obtain ⟨honly, hpc, hpsw, hmmu, htlb, houtside, hbus, hdraws⟩ := computes_setReg r v (s.addCycle c)
  exact ⟨honly, hpc, hpsw, hmmu, htlb, houtside, hbus, hdraws⟩

/-- An answer that finishes a read of RAM or ROM loads the extended bytes. -/
theorem exists_loads_of_finishLoad {R : Result} {r : Reg} {extend : Word → Word} {s : State} {va pa v : Word} {w : Width}
    (hmem : InMemory s pa) (hgoes : GoesTo s va w false pa) (hR : R = finishLoad r extend (memRead va w s))
    (hv : extend (Memory.read s.mem pa.toNat w) = v) : ∃ t, R = .next t ∧ Loads r v (readCycle pa w) s t := by
  subst hv
  refine ⟨_, ?_, loads_setReg_addCycle r _ _ s⟩
  rw [hR, memRead_of_goesTo hgoes, busRead_of_inMemory w hmem, finishLoad]

/-- Settles O24: each load finishes a read of memory, and its extension is that of the bytes' number. -/
theorem loadsReadMemory : Obligations.LoadsReadMemory := by
  intro s r x y pa hmem
  refine ⟨fun hgoes => ?ldw, fun hgoes => ⟨?ldh, ?ldhu⟩, fun hgoes => ⟨?ldb, ?ldbu⟩⟩
  case ldw => exact exists_loads_of_finishLoad hmem hgoes rfl (word_read s _)
  case ldh => exact exists_loads_of_finishLoad hmem hgoes rfl (signHalf_read s _)
  case ldhu => exact exists_loads_of_finishLoad hmem hgoes rfl (zeroHalf_read s _)
  case ldb => exact exists_loads_of_finishLoad hmem hgoes rfl (signByte_read s _)
  case ldbu => exact exists_loads_of_finishLoad hmem hgoes rfl (zeroByte_read s _)

/-! ## The stores to RAM (R238 to R240) -/

/-- Settles O25: a store's write is answered by RAM, and writes memory and the record of bus cycles alone. -/
theorem storesWriteRam : Obligations.StoresWriteRam := by
  intro s r x y pa hwf hram frame
  have hstore : ∀ {i w}, Instr.IsStoreOf i r x y w → GoesTo s (dataAddress x y s) w true pa →
      ∃ t, exec i s = .next t ∧ frame w t := by
    intro i w hi hgoes
    have hwrite := (memWrite_of_goesTo _ hgoes).trans (busWrite_of_inRam w (s.reg r) hram)
    exact ⟨_, exec_store_done hi hwrite, fun _ => rfl, rfl, rfl, ⟨rfl, rfl, rfl, rfl⟩, ⟨fun _ => rfl, rfl⟩, rfl, rfl, rfl,
      rfl, rfl, rfl, bigEndian_of_write hwf rfl, fun _ hb => Memory.byte_write_of_outside w _ hwf hb⟩
  exact ⟨hstore (.inl ⟨rfl, rfl⟩), hstore (.inr (.inl ⟨rfl, rfl⟩)), hstore (.inr (.inr ⟨rfl, rfl⟩))⟩

/-! ## Accesses that fail a check (R80, R86, R242) -/

/-- A load raises the fault of its first failing check at its own address, in the state that it was given. -/
theorem load_takes_of_failsWith {i : Instr} {r x : Reg} {y : Half} {w : Width} {s : State} {c : Cause}
    (hi : Instr.IsLoadOf i r x y w) (hfail : FailsWith s (dataAddress x y s) w false c) :
    ∃ t, exec i s = .next t ∧ Takes c (s.pc - 4) s t :=
  ⟨_, exec_load_fault hi (memRead_of_failsWith hfail), raisingTakesTheException c _ s⟩

/-- A store raises the fault of its first failing check at its own address, in the state that it was given. -/
theorem store_takes_of_failsWith {i : Instr} {r x : Reg} {y : Half} {w : Width} {s : State} {c : Cause}
    (hi : Instr.IsStoreOf i r x y w) (hfail : FailsWith s (dataAddress x y s) w true c) :
    ∃ t, exec i s = .next t ∧ Takes c (s.pc - 4) s t :=
  ⟨_, exec_store_fault hi (memWrite_of_failsWith _ hfail), raisingTakesTheException c _ s⟩

/-- Settles O28, by direction and width of the access. -/
theorem failedAccessesTakeTheirFault : Obligations.FailedAccessesTakeTheirFault := by
  rintro s r x y c i (⟨hi, hfail⟩ | ⟨hi, hfail⟩ | ⟨hi, hfail⟩ | ⟨hi, hfail⟩ | ⟨hi, hfail⟩ | ⟨hi, hfail⟩)
  · exact load_takes_of_failsWith (.inl ⟨hi, rfl⟩) hfail
  · exact load_takes_of_failsWith (.inr (.inl ⟨hi, rfl⟩)) hfail
  · exact load_takes_of_failsWith (.inr (.inr ⟨hi, rfl⟩)) hfail
  · exact store_takes_of_failsWith (.inl ⟨hi, rfl⟩) hfail
  · exact store_takes_of_failsWith (.inr (.inl ⟨hi, rfl⟩)) hfail
  · exact store_takes_of_failsWith (.inr (.inr ⟨hi, rfl⟩)) hfail

end Sys2Proof.Machine

/-! SUPPORT. The system instructions in each mode: the privilege test, RFX and TRAP, the special registers as words, and the
TLB with its register pair (spec 43_system.md R250 to R259). -/

namespace Sys2Proof.Machine

/-! ## The special registers (R253, R254) -/

/-- Settles O35: the register takes the word of S[z], which holds each field at its bits. -/
theorem mvfsReadsSpecialRegisters : Obligations.MvfsReadsSpecialRegisters := by
  intro s r z hk hz
  obtain ⟨v, hv⟩ : ∃ v, s.special z = some v :=
    Option.isSome_iff_exists.1 ((s.special_isSome z).trans (decide_eq_true hz))
  refine ⟨_, v, execMvfs_kernel hk hv, computes_setReg r v s, ?psw, ?index, ?high, ?low, ?bad⟩
  case psw =>
    rintro rfl
    obtain rfl : s.psw.toWord = v := Option.some.inj hv
    exact ⟨Psw.toWord_v _, Psw.toWord_uc _, Psw.toWord_up _, Psw.toWord_uo _, Psw.toWord_ic _, Psw.toWord_ip _,
      Psw.toWord_io _, Psw.toWord_eid _, Psw.toWord_ien _, Psw.toWord_ignored _⟩
  case index =>
    rintro rfl
    obtain rfl : s.tlbIndex.toWord = v := Option.some.inj hv
    exact ⟨TlbIndex.toWord_miss _, TlbIndex.toWord_index _, TlbIndex.toWord_ignored _⟩
  case high =>
    rintro rfl
    obtain rfl : s.tlbHigh.toWord = v := Option.some.inj hv
    exact ⟨TlbHigh.toWord_page _, TlbHigh.toWord_ignored _⟩
  case low =>
    rintro rfl
    obtain rfl : s.tlbLow.toWord = v := Option.some.inj hv
    exact ⟨TlbLow.toWord_frame _, TlbLow.toWord_write _, TlbLow.toWord_valid _, TlbLow.toWord_ignored _⟩
  case bad =>
    rintro rfl
    exact (Option.some.inj hv).symm

/-- A write of a special register leaves the general registers, pc and the TLB alone, and all that lies outside the core. -/
theorem State.setSpecial_frame {s t : State} {z : Half} {v : Word} (h : s.setSpecial z v = some t) :
    SameRegs s t ∧ t.pc = s.pc ∧ SameTlb s t ∧ SameOutside s t ∧ t.bus = s.bus := by
  have hbeyond := sameBeyondCore_setSpecial h
  have hcore : SameRegs s t ∧ t.pc = s.pc ∧ SameTlb s t := by
    obtain ⟨-, g, rfl⟩ | ⟨-, g, rfl⟩ | ⟨-, g, rfl⟩ | ⟨-, g, rfl⟩ | ⟨-, rfl⟩ := State.setSpecial_cases h
    all_goals exact ⟨fun _ => rfl, rfl, fun _ => rfl, rfl⟩
  obtain ⟨hregs, hpc, htlb⟩ := hcore
  exact ⟨hregs, hpc, htlb, hbeyond.sameOutside, hbeyond.bus⟩

/-- MVTS in Kernel Mode answers the state after the write of the special register, with the frame of that write. -/
theorem exec_mvts_of_setSpecial {s t : State} {r : Reg} {z : Half} {P : State → Prop} (hk : s.psw.uc = false)
    (hz : s.setSpecial z (s.reg r) = some t) (hP : P t) :
    ∃ t, exec (.mvts r z) s = .next t ∧
      (SameRegs s t ∧ t.pc = s.pc ∧ SameTlb s t ∧ SameOutside s t ∧ t.bus = s.bus) ∧ P t :=
  ⟨t, execMvts_kernel hk hz, State.setSpecial_frame hz, hP⟩

/-- Settles O36: S[z] takes its fields from the word of the general register, and the five writes have one frame. -/
theorem mvtsWritesSpecialRegisters : Obligations.MvtsWritesSpecialRegisters := by
  intro s r hk v same
  refine ⟨exec_mvts_of_setSpecial hk rfl ?psw, exec_mvts_of_setSpecial hk rfl ?index,
    exec_mvts_of_setSpecial hk rfl ?high, exec_mvts_of_setSpecial hk rfl ?low, exec_mvts_of_setSpecial hk rfl ?bad⟩
  case psw => exact ⟨⟨rfl, rfl, rfl, rfl⟩, rfl, rfl, rfl, rfl, rfl, rfl, rfl, rfl, rfl⟩
  case index => exact ⟨rfl, rfl, rfl, rfl, rfl, rfl⟩
  case high => exact ⟨rfl, rfl, rfl, rfl, rfl⟩
  case low => exact ⟨rfl, rfl, rfl, rfl, rfl, rfl, rfl⟩
  case bad => exact ⟨rfl, rfl, rfl, rfl, rfl⟩

/-! ## TBS (R255) -/

/-- S[1] without its miss bit is its index. -/
theorem TlbIndex.toNat_toWord_found (i : BitVec 5) :
    (TlbIndex.toWord { miss := false, ignored := 0, index := i }).toNat = i.toNat := by
  simp only [TlbIndex.toWord, BitVec.toNat_append]
  simp

theorem searchTlb_of_onlyEntry {s : State} {i : BitVec 5} (h : OnlyEntry s s.tlbHigh.page i) :
    searchTlb s = s.setIndex { miss := false, ignored := 0, index := i } := by
  rw [searchTlb, (s.hits_eq_singleton_iff _ i).2 h]

theorem searchTlb_of_noEntry {s : State} (h : NoEntry s s.tlbHigh.page) :
    searchTlb s = s.setIndex { miss := true, ignored := 0, index := 0 } := by
  rw [searchTlb, (s.hits_eq_nil_iff _).2 h]

/-- Settles O37: the search writes S[1] alone, from the list of entries with the page of S[2]. -/
theorem tbsSearchesTheTlb : Obligations.TbsSearchesTheTlb := by
  intro s hk
  have hbeyond := (KernelEffect.tbs hk).sameBeyondCore
  refine ⟨_, execTbs_kernel hk, searchTlb_reg s, searchTlb_pc s, searchTlb_psw s, searchTlb_tlbHigh s, searchTlb_tlbLow s,
    searchTlb_tlbBad s, ⟨searchTlb_entry s, searchTlb_rng s⟩, hbeyond.sameOutside, hbeyond.bus, fun i hi => ?found,
    fun hn => ?missed⟩
  case found =>
    rw [searchTlb_of_onlyEntry hi, State.setIndex_tlbIndex]
    exact TlbIndex.toNat_toWord_found i
  case missed =>
    rw [searchTlb_of_noEntry hn, State.setIndex_tlbIndex]
    decide

/-! ## TBWR and TBWI (R256, R258, R259) -/

/-- The generator's index is one of the 28 that are not fixed (R40, R256). -/
theorem toNat_randomIndex (s : State) : (randomIndex s).toNat = Config.tlbRandom s.rng % 28 + 4 := by
  rw [randomIndex, BitVec.toNat_ofNat]
  omega

/-- After a write of the register pair to entry k, that entry alone holds it. -/
theorem State.entry_setEntry_fromRegs (s : State) (k j : BitVec 5) :
    (s.setEntry k s.entryFromRegs).entry j =
      if j.toNat = k.toNat then
        { page := s.tlbHigh.page, frame := s.tlbLow.frame, write := s.tlbLow.write, valid := s.tlbLow.valid }
      else s.entry j := by
  simp only [State.entry_setEntry, BitVec.toNat_inj, State.entryFromRegs]

/-- A write of a TLB entry leaves every register alone, and all that lies outside the core. -/
theorem State.setEntry_frame (s : State) (k : BitVec 5) (e : TlbEntry) :
    SameRegs s (s.setEntry k e) ∧ (s.setEntry k e).pc = s.pc ∧ (s.setEntry k e).psw = s.psw ∧
      SameMmuRegs s (s.setEntry k e) ∧ SameOutside s (s.setEntry k e) ∧ Quiet s (s.setEntry k e) :=
  ⟨s.setEntry_reg k e, rfl, rfl, ⟨rfl, rfl, rfl, rfl⟩, ⟨fun _ => rfl, rfl, rfl, rfl, rfl⟩, ⟨rfl, rfl⟩⟩

/-- Settles O38: the entry is the generator's, and moving the generator on changes nothing that the statement names. -/
theorem tbwrReplacesANonFixedEntry : Obligations.TbwrReplacesANonFixedEntry := by
  intro s hk
  have hrandom := toNat_randomIndex s
  obtain ⟨hregs, hpc, hpsw, hmmu, houtside, hquiet⟩ := s.setEntry_frame (randomIndex s) s.entryFromRegs
  exact ⟨_, (randomIndex s).toNat, execTbwr_kernel hk, by omega, (randomIndex s).isLt, s.entry_setEntry_fromRegs _, hregs,
    hpc, hpsw, hmmu, houtside, hquiet⟩

/-- Settles O39: S[1] MOD 32 is the index field of S[1]. -/
theorem tbwiWritesTheIndexedEntry : Obligations.TbwiWritesTheIndexedEntry := by
  intro s hk
  obtain ⟨hregs, hpc, hpsw, hmmu, houtside, hquiet⟩ := s.setEntry_frame s.tlbIndex.index s.entryFromRegs
  refine ⟨_, execTbwi_kernel hk, ?_, hregs, hpc, hpsw, hmmu, State.setEntry_rng s _ _, houtside, hquiet⟩
  rw [TlbIndex.toWord_mod]
  exact s.entry_setEntry_fromRegs s.tlbIndex.index

/-! ## TBRI (R257, R259) -/

/-- Settles O40: S[2] and S[3] take the fields of the entry that the index field of S[1] names. -/
theorem tbriReadsTheIndexedEntry : Obligations.TbriReadsTheIndexedEntry := by
  intro s i hk hi
  obtain rfl : s.tlbIndex.index = i := BitVec.eq_of_toNat_eq (s.tlbIndex.toWord_mod.symm.trans hi)
  have hbeyond := (KernelEffect.tbri hk).sameBeyondCore
  exact ⟨_, execTbri_kernel hk, rfl, rfl, rfl, rfl, s.regsFromEntry_reg _, rfl, rfl, rfl, rfl,
    ⟨s.regsFromEntry_entry _, rfl⟩, hbeyond.sameOutside, hbeyond.bus⟩

/-! ## The privilege test, TRAP and RFX (R250 to R252) -/

/-- The seven privileged instructions (R250). -/
def Instr.IsPrivileged (i : Instr) : Prop :=
  i = .rfx ∨ (∃ r z, i = .mvfs r z) ∨ (∃ r z, i = .mvts r z) ∨ i = .tbs ∨ i = .tbwr ∨ i = .tbri ∨ i = .tbwi

/-- In User Mode a privileged instruction takes its fault whatever its operands are: z is tested after the mode (R250). -/
theorem Instr.IsPrivileged.exec_user {i : Instr} {s : State} (hi : Instr.IsPrivileged i) (hu : s.psw.uc = true) :
    exec i s = .next (raise .privilegedInstruction (s.pc - 4) s) := by
  obtain rfl | ⟨r, z, rfl⟩ | ⟨r, z, rfl⟩ | rfl | rfl | rfl | rfl := hi
  all_goals
    simp only [exec, execRfx, execMvfs, execMvts, execTbs, execTbwr, execTbri, execTbwi, privileged_user _ hu]

/-- Settles O32: in User Mode the privilege test answers the fault, whatever the instruction would do after it. -/
theorem privilegedInstructionsFaultInUserMode : Obligations.PrivilegedInstructionsFaultInUserMode :=
  fun s _ hu hi => ⟨_, Instr.IsPrivileged.exec_user hi hu, raisingTakesTheException _ _ s, raise_draws _ _ s⟩

/-- Settles O33: TRAP raises its fault without a privilege test. -/
theorem trapTakesTheTrapFault : Obligations.TrapTakesTheTrapFault :=
  fun s => ⟨_, raiseFault_eq .trap s, raisingTakesTheException _ _ s, raise_draws _ _ s⟩

/-- Settles O34: the return writes pc and the two stacks of the PSW alone. -/
theorem rfxPopsTheStacks : Obligations.RfxPopsTheStacks := by
  intro s hk
  have hbeyond := (KernelEffect.rfx hk).sameBeyondCore
  exact ⟨_, execRfx_kernel hk, rfl, rfl, rfl, rfl, rfl, rfl, rfl, rfl, rfl, rfl, rfl, returnFromException_reg s,
    ⟨rfl, rfl, rfl, rfl⟩, ⟨returnFromException_entry s, rfl⟩, hbeyond.sameOutside, hbeyond.bus, rfl⟩

end Sys2Proof.Machine

/-! SUPPORT. The turn of the execution loop: the interrupt test, nested exceptions, the fetch of an instruction, and what
a turn that begins in User Mode keeps and how it enters Kernel Mode (spec 60_exceptions.md R285 to R311). -/

namespace Sys2Proof.Machine

/-! ## The interrupt test (R297, R300) -/

/-- An interrupt notes no address before it is accepted (R80), and its acceptance may move the counter of free values. -/
theorem takes_accept_interrupt (line : BitVec 4) (ret : Word) (s : State) (k : Nat) :
    Takes (.interrupt line) ret s (accept (.interrupt line) ret (s.drawn k)) :=
  raisingTakesTheException (.interrupt line) ret (s.drawn k)

/-- Settles O43: the two outcomes of the interrupt test, told apart by whether a signalled line is admitted. -/
theorem admittedInterruptsAreAccepted : Obligations.AdmittedInterruptsAreAccepted := by
  intro s
  obtain ⟨hsame, hnone⟩ | ⟨hic, i, hi, haccept⟩ := interruptTest_cases s
  · refine ⟨?_, fun _ => hsame⟩
    rintro hic ⟨i, hlt, hirq, hien⟩
    have hmem : i ∈ s.signalled := (s.mem_signalled i).2 ⟨hlt, hirq, hien⟩
    obtain hoff | hempty := hnone
    · simp [hic] at hoff
    · simp [hempty] at hmem
  · obtain ⟨hlt, hirq, hien⟩ := (s.mem_signalled i).1 hi
    refine ⟨fun _ _ => ⟨i, hlt, hirq, hien, ?_⟩, ?_⟩
    · rw [haccept]
      exact takes_accept_interrupt _ _ _ _
    · rintro (hoff | hquiet)
      · simp [hic] at hoff
      · simpa [hirq, hien] using hquiet i hlt

/-! ## Every turn has a next state (R285, R371) -/

/-- Settles O49: the reset line's turn is a next state, and fetching and executing always answers one. -/
theorem everyStepAnswersNext : Obligations.EveryStepAnswersNext := by
  intro s
  cases hr : s.turnInput.reset with
  | true => exact ⟨_, by simp only [step, turn, hr, if_true]; rfl⟩
  | false =>
    obtain ⟨t, ht⟩ := fetchAndExecute_next (applyEvents s.turnInput.before (beginTurn s))
    exact ⟨_, by rw [step_of_noReset hr, ht]; rfl⟩

/-! ## Nested exceptions (R252, R305) -/

/-- RFX where it completes, in Kernel Mode. -/
theorem eq_of_exec_rfx {s t : State} (hk : s.psw.uc = false) (h : exec .rfx s = .next t) : t = returnFromException s := by
  cases (execRfx_kernel hk).symm.trans h
  rfl

/-- Settles O13: each acceptance pushes Kernel Mode with interrupts disabled, so the first return pops those and leaves
the values that the outer acceptance pushed. -/
theorem twoReturnsUndoTwoExceptions : Obligations.TwoReturnsUndoTwoExceptions := by
  intro c d ret ret' s t u ht hu
  have htu : t.psw.uc = false := by
    rw [eq_of_exec_rfx (by simp [Psw.accepted]) ht]
    simp [Psw.accepted, Psw.popped]
  obtain rfl := eq_of_exec_rfx (by simp [Psw.accepted]) ht
  obtain rfl := eq_of_exec_rfx htu hu
  simp [Psw.accepted, Psw.popped, raise_reg]

/-! ## The instruction fetched (R83, R200, R285) -/

/-- A fetch that answers a word of an instruction executes it with pc moved past the word. -/
theorem fetchAndExecute_of_done {s t : State} {w : Word} {i : Instr} (hf : fetch s = .done w t)
    (hd : decodeWord w = .ok i) : fetchAndExecute s = exec i (t.setPc (s.pc + 4)) := by
  simp only [fetchAndExecute, hf, hd]

/-- The turn of a fetch that answers a word of an instruction. -/
theorem step_of_fetch_done {s t u : State} {w : Word} {i : Instr} (hr : s.turnInput.reset = false)
    (hu : u = applyEvents s.turnInput.before (beginTurn s)) (hf : fetch u = .done w t) (hd : decodeWord w = .ok i) :
    step s = endTurn s.turnInput (exec i (t.setPc (u.pc + 4))) := by
  rw [step_of_noReset hr, ← hu, fetchAndExecute_of_done hf hd]

/-- Four bytes of memory decode as the word read there (R66, R120). -/
theorem decodeWord_of_decode_bytes {m : Cells 8} {a : Nat} {i : Instr} {rest : List Byte}
    (h : decode (m.bytes a 4) = .ok (i, rest)) : decodeWord (Memory.read m a .word) = .ok i := by
  have hbytes : m.bytes a 4 = [m.get a, m.get (a + 1), m.get (a + 2), m.get (a + 3)] := rfl
  rw [hbytes, decode] at h
  split at h
  case h_1 hd =>
    cases h
    exact hd
  case h_2 => cases h

/-- A word read of a device answers that device's word and changes the devices alone (R92). -/
theorem deviceReads_of_select {s : State} {pa : Word} {r : DevReg} (h : select s.cfg pa = .device r) :
    DeviceReads s pa (s.dev.read s.cfg r s.draws).1 (s.dev.read s.cfg r s.draws).2 := by
  have hread := busRead_of_device h
  obtain ⟨hcore, hext, hmem, hbus, -⟩ := busRead_done hread
  exact ⟨_, hread, rfl, hcore.onlyRegAndDevices hext hmem, hbus⟩

/-- A word write of a device is that device's own and changes the devices alone (R93). -/
theorem deviceWrites_of_select {s : State} {pa : Word} {r : DevReg} (v : Word) (h : select s.cfg pa = .device r) :
    DeviceWrites s pa v (s.dev.write r v s.draws) := by
  have hwrite := busWrite_of_device v h
  obtain ⟨hcore, hext, hbus, -⟩ := busWrite_done hwrite
  exact ⟨_, _, hwrite, rfl, hcore.onlyRegAndDevices hext (busWrite_mem_of_device h hwrite), hbus⟩

/-- Settles O41: a fetch that passes its checks is its bus cycle, which memory or the device answers. -/
theorem stepRunsTheDecodedInstruction : Obligations.StepRunsTheDecodedInstruction := by
  intro s u pa hr hu hgoes
  have hfetch : fetch u = busRead pa .word u := memRead_of_goesTo hgoes
  refine ⟨fun i rest hmem hdecode => ?_, fun d hs => ?_⟩
  · exact step_of_fetch_done hr hu (hfetch.trans (busRead_of_inMemory .word hmem)) (decodeWord_of_decode_bytes hdecode)
  · obtain ⟨v, hread, hdev, hframe, hbus⟩ := deviceReads_of_select hs
    have hdone := hfetch.trans hread
    exact ⟨_, v, hdone, ⟨v, hread, rfl, hframe, hbus⟩, hframe, hbus, fun i => step_of_fetch_done hr hu hdone⟩

/-! ## What a turn in User Mode keeps (R250, R310) -/

/-- The privileged state that no turn of User Mode reaches: the TLB and its generator, S[1], S[3], and the fields V, IEN
and 31..28 of the PSW (R310). -/
structure SamePrivileged (s t : State) : Prop where
  tlb : t.tlb = s.tlb
  rng : t.rng = s.rng
  index : t.tlbIndex = s.tlbIndex
  low : t.tlbLow = s.tlbLow
  v : t.psw.v = s.psw.v
  ien : t.psw.ien = s.psw.ien
  ignored : t.psw.ignored = s.psw.ignored

theorem SamePrivileged.trans {s t u : State} (h : SamePrivileged s t) (k : SamePrivileged t u) : SamePrivileged s u :=
  ⟨k.tlb.trans h.tlb, k.rng.trans h.rng, k.index.trans h.index, k.low.trans h.low, k.v.trans h.v, k.ien.trans h.ien,
    k.ignored.trans h.ignored⟩

theorem SameCore.samePrivileged {s t : State} (h : SameCore s t) : SamePrivileged s t :=
  ⟨h.tlb, h.rng, h.tlbIndex, h.tlbLow, by rw [h.psw], by rw [h.psw], by rw [h.psw]⟩

theorem SamePrivileged.sameTlb {s t : State} (h : SamePrivileged s t) : SameTlb s t :=
  ⟨fun i => by simp [State.entry, h.tlb], h.rng⟩

/-- Taking an exception changes the stacks and EID of the PSW, none of the fields that only MVTS writes (R290). -/
theorem samePrivileged_raise (c : Cause) (ret : Word) (s : State) : SamePrivileged s (raise c ret s) := by
  constructor <;> simp [Psw.accepted]

theorem samePrivileged_setReg (r : Reg) (v : Word) (s : State) : SamePrivileged s (s.setReg r v) := by
  constructor <;> simp

theorem samePrivileged_setPc (target : Word) (s : State) : SamePrivileged s (s.setPc target) :=
  ⟨rfl, rfl, rfl, rfl, rfl, rfl, rfl⟩

theorem CoreEffect.samePrivileged {s t : State} (h : CoreEffect s t) : SamePrivileged s t := by
  cases h with
  | none => exact (SameCore.refl s).samePrivileged
  | result r v => exact samePrivileged_setReg r v s
  | jump target => exact samePrivileged_setPc target s
  | link target => exact (samePrivileged_setReg 31 s.pc s).trans (samePrivileged_setPc target _)
  | divisionByZero => exact samePrivileged_raise _ _ s
  | trap => exact samePrivileged_raise _ _ s

/-- In User Mode a privileged instruction is its fault (R250). -/
theorem KernelEffect.eq_raise_of_user {s t : State} (h : KernelEffect s t) (hu : s.psw.uc = true) :
    t = raise .privilegedInstruction (s.pc - 4) s := by
  cases h with
  | faultUser => rfl
  | _ hk => simp [hu] at hk

theorem LoadEffect.samePrivileged {s t : State} (h : LoadEffect s t) : SamePrivileged s t := by
  cases h with
  | done va w v u hu r x =>
    obtain ⟨hcore, -⟩ := memRead_done hu
    exact hcore.samePrivileged.trans (samePrivileged_setReg r x u)
  | fault va w c u hu =>
    obtain ⟨hcore, -⟩ := memRead_fault hu
    exact hcore.samePrivileged.trans (samePrivileged_raise _ _ u)

theorem StoreEffect.samePrivileged {s t : State} (h : StoreEffect s t) : SamePrivileged s t := by
  cases h with
  | done va w v k _ hu =>
    obtain ⟨hcore, -⟩ := memWrite_done hu
    exact hcore.samePrivileged
  | fault va w v c u hu =>
    obtain ⟨hcore, -⟩ := memWrite_fault hu
    exact hcore.samePrivileged.trans (samePrivileged_raise _ _ u)

theorem exec_samePrivileged_of_user {i : Instr} {s t : State} (hu : s.psw.uc = true) (h : exec i s = .next t) :
    SamePrivileged s t := by
  obtain hcore | hkernel | ⟨-, hload⟩ | ⟨-, hstore⟩ := effect_of_exec h
  · exact hcore.samePrivileged
  · rw [hkernel.eq_raise_of_user hu]
    exact samePrivileged_raise _ _ s
  · exact hload.samePrivileged
  · exact hstore.samePrivileged

/-- The fetch reads and leaves the mode alone, so the instruction is still one of User Mode. -/
theorem fetchAndExecute_samePrivileged_of_user {s t : State} (hu : s.psw.uc = true) (h : fetchAndExecute s = .next t) :
    SamePrivileged s t := by
  obtain ⟨c, u, hf, he⟩ | ⟨w, u, e, hf, -, he⟩ | ⟨w, u, i, hf, -, he⟩ := fetchAndExecute_cases s <;>
    rw [he] at h
  · obtain ⟨hcore, -⟩ := memRead_fault hf
    cases h
    exact hcore.samePrivileged.trans (samePrivileged_raise _ _ u)
  · obtain ⟨hcore, -⟩ := memRead_done hf
    cases h
    rw [raise_setPc]
    exact hcore.samePrivileged.trans (samePrivileged_raise _ _ u)
  · obtain ⟨hcore, -⟩ := memRead_done hf
    have hexec := exec_samePrivileged_of_user (by simp [hcore.psw, hu]) h
    exact hcore.samePrivileged.trans ((samePrivileged_setPc _ u).trans hexec)

theorem interruptTest_samePrivileged (s : State) : SamePrivileged s (interruptTest s) := by
  obtain ⟨h, -⟩ | ⟨-, i, -, h⟩ := interruptTest_cases s <;> rw [h]
  · exact (SameCore.refl s).samePrivileged
  · exact (SameCore.drawn s 1).samePrivileged.trans (samePrivileged_raise (.interrupt _) s.pc (s.drawn 1))

/-- A turn begins with its events, which leave the core alone but for the script of inputs. -/
theorem atFetch_samePrivileged (s : State) :
    SamePrivileged s (applyEvents s.turnInput.before (beginTurn s)) := by
  obtain ⟨hcore, -⟩ := applyEvents_frame s.turnInput.before (beginTurn s)
  have hbegin : SamePrivileged s (beginTurn s) := ⟨rfl, rfl, rfl, rfl, rfl, rfl, rfl⟩
  exact hbegin.trans hcore.samePrivileged

/-- Settles O51, part by part of the turn; only the instruction's part needs that the mode is User. -/
theorem userModeCannotTouchPrivilegedState : Obligations.UserModeCannotTouchPrivilegedState := by
  intro s t hu hr h
  obtain ⟨hreset, -⟩ | ⟨-, u, hexec, rfl⟩ := step_cases h
  · simp [hr] at hreset
  · obtain ⟨hpsw, -⟩ := atFetch_frame s
    have hturn := fetchAndExecute_samePrivileged_of_user (by rw [hpsw, hu]) hexec
    obtain ⟨hafter, -⟩ := applyEvents_frame s.turnInput.after u
    have hsame := (atFetch_samePrivileged s).trans
      (hturn.trans (hafter.samePrivileged.trans (interruptTest_samePrivileged _)))
    exact ⟨hsame.sameTlb, hsame.index, hsame.low, hsame.v, hsame.ien, hsame.ignored⟩

/-! ## How Kernel Mode is entered (R290, R311) -/

/-- An exception that is no interrupt (R282, R286). -/
def Cause.IsFault (c : Cause) : Prop := ∀ line, c ≠ .interrupt line

/-- An access fails with one of the faults of R86. -/
theorem checkAccess_isFault {va : Word} {w : Width} {isWrite : Bool} {s t : State} {c : Cause}
    (h : checkAccess va w isWrite s = .fault c t) : c.IsFault := by
  obtain ⟨-, rfl | rfl | rfl | rfl | ⟨-, rfl⟩⟩ := checkAccess_fault h <;> exact fun _ => nofun

theorem memRead_isFault {va : Word} {w : Width} {s t : State} {c : Cause} (h : memRead va w s = .fault c t) :
    c.IsFault := by
  unfold memRead at h
  split at h
  case h_1 hc =>
    cases h
    exact checkAccess_isFault hc
  case h_2 =>
    obtain ⟨-, rfl, -⟩ := busRead_fault h
    exact fun _ => nofun

theorem memWrite_isFault {va v : Word} {w : Width} {s t : State} {c : Cause} (h : memWrite va w v s = .fault c t) :
    c.IsFault := by
  unfold memWrite at h
  split at h
  case h_1 hc =>
    cases h
    exact checkAccess_isFault hc
  case h_2 =>
    obtain ⟨-, rfl, -⟩ := busWrite_fault h
    exact fun _ => nofun

/-- The exception c has been accepted in a state of the same PSW as s, with the given return address: both stacks, EID,
pc, x[30] and, after an address fault, S[4] are as R290, R291 and R80 say. -/
structure EntersBy (c : Cause) (ret : Word) (s t : State) : Prop where
  psw : t.psw = s.psw.accepted c
  pc : t.pc = serviceAddress s.psw.v c
  bad : ∀ va, faultingAddress c = some va → t.tlbBad = va
  link : t.reg 30 = ret

/-- A fault noted its address (R80). -/
theorem tlbBad_noteAddress {c : Cause} {va : Word} (h : faultingAddress c = some va) (s : State) :
    (noteAddress c s).tlbBad = va := by
  cases c <;> cases h <;> rfl

theorem entersBy_raise {s t : State} (h : t.psw = s.psw) (c : Cause) (ret : Word) : EntersBy c ret s (raise c ret t) where
  psw := by rw [raise_psw, h]
  pc := by rw [raise_pc, h]
  bad va hva := by rw [raise_tlbBad, tlbBad_noteAddress hva]
  link := by simp [raise_reg]

/-- What leaves the core alone may follow the acceptance. -/
theorem EntersBy.of_sameCore {c : Cause} {ret : Word} {s t u : State} (h : EntersBy c ret s t) (k : SameCore t u) :
    EntersBy c ret s u where
  psw := k.psw.trans h.psw
  pc := k.pc.trans h.pc
  bad va hva := k.tlbBad.trans (h.bad va hva)
  link := (k.reg 30).trans h.link

/-- A part of a turn that either leaves the PSW alone or takes a fault with the given return address. -/
def KeepsPswOrFaults (ret : Word) (s t : State) : Prop :=
  t.psw = s.psw ∨ ∃ c : Cause, c.IsFault ∧ EntersBy c ret s t

theorem CoreEffect.keepsPswOrFaults {s t : State} (h : CoreEffect s t) : KeepsPswOrFaults (s.pc - 4) s t := by
  cases h with
  | none => exact .inl rfl
  | result r v => exact .inl (by simp)
  | jump target => exact .inl rfl
  | link target => exact .inl (by simp)
  | divisionByZero => exact .inr ⟨.divisionByZero, fun _ => nofun, entersBy_raise rfl _ _⟩
  | trap => exact .inr ⟨.trap, fun _ => nofun, entersBy_raise rfl _ _⟩

theorem LoadEffect.keepsPswOrFaults {s t : State} (h : LoadEffect s t) : KeepsPswOrFaults (s.pc - 4) s t := by
  cases h with
  | done va w v u hu r x =>
    obtain ⟨hcore, -⟩ := memRead_done hu
    exact .inl (by simp [hcore.psw])
  | fault va w c u hu =>
    obtain ⟨hcore, -⟩ := memRead_fault hu
    rw [hcore.pc]
    exact .inr ⟨c, memRead_isFault hu, entersBy_raise hcore.psw _ _⟩

theorem StoreEffect.keepsPswOrFaults {s t : State} (h : StoreEffect s t) : KeepsPswOrFaults (s.pc - 4) s t := by
  cases h with
  | done va w v k _ hu =>
    obtain ⟨hcore, -⟩ := memWrite_done hu
    exact .inl hcore.psw
  | fault va w v c u hu =>
    obtain ⟨hcore, -⟩ := memWrite_fault hu
    rw [hcore.pc]
    exact .inr ⟨c, memWrite_isFault hu, entersBy_raise hcore.psw _ _⟩

/-- In User Mode no instruction writes the PSW but by a fault at its own address (R250, R286). -/
theorem exec_keepsPswOrFaults_of_user {i : Instr} {s t : State} (hu : s.psw.uc = true) (h : exec i s = .next t) :
    KeepsPswOrFaults (s.pc - 4) s t := by
  obtain hcore | hkernel | ⟨-, hload⟩ | ⟨-, hstore⟩ := effect_of_exec h
  · exact hcore.keepsPswOrFaults
  · rw [hkernel.eq_raise_of_user hu]
    exact .inr ⟨.privilegedInstruction, fun _ => nofun, entersBy_raise rfl _ _⟩
  · exact hload.keepsPswOrFaults
  · exact hstore.keepsPswOrFaults

/-- The same of fetching and executing: every fault returns to the pc of the fetch (R83, R286). -/
theorem fetchAndExecute_keepsPswOrFaults_of_user {s t : State} (hu : s.psw.uc = true) (h : fetchAndExecute s = .next t) :
    KeepsPswOrFaults s.pc s t := by
  obtain ⟨c, u, hf, he⟩ | ⟨w, u, e, hf, -, he⟩ | ⟨w, u, i, hf, -, he⟩ := fetchAndExecute_cases s <;>
    rw [he] at h
  · obtain ⟨hcore, -⟩ := memRead_fault hf
    cases h
    exact .inr ⟨c, memRead_isFault hf, entersBy_raise hcore.psw _ _⟩
  · obtain ⟨hcore, -⟩ := memRead_done hf
    cases h
    rw [raise_setPc]
    exact .inr ⟨.illegalInstruction, fun _ => nofun, entersBy_raise hcore.psw _ _⟩
  · obtain ⟨hcore, -⟩ := memRead_done hf
    have hexec := exec_keepsPswOrFaults_of_user (s := u.setPc (s.pc + 4)) (by simp [hcore.psw, hu]) h
    have hret : s.pc + 4 - 4 = s.pc := by bv_omega
    rw [State.setPc_pc, hret] at hexec
    obtain hpsw | ⟨c, hc, henters⟩ := hexec
    · exact .inl (hpsw.trans hcore.psw)
    · exact .inr ⟨c, hc, by rw [henters.psw, State.setPc_psw, hcore.psw],
        by rw [henters.pc, State.setPc_psw, hcore.psw], henters.bad, henters.link⟩

/-- After an acceptance interrupts are disabled, so the test accepts nothing more (R287). -/
theorem EntersBy.interruptTest {c : Cause} {ret : Word} {s t : State} (h : EntersBy c ret s t) :
    interruptTest t = t := by
  obtain ⟨hsame, -⟩ | ⟨hic, -⟩ := interruptTest_cases t
  · exact hsame
  · simp [h.psw, Psw.accepted] at hic

/-- The cases of a turn without reset that goes from User to Kernel Mode: a fault of its instruction, or an interrupt
after an instruction that left User Mode on. -/
theorem step_entersBy {s t : State} (hu : s.psw.uc = true) (hr : s.turnInput.reset = false) (h : step s = .next t)
    (hk : t.psw.uc = false) :
    (∃ c : Cause, c.IsFault ∧ EntersBy c s.pc s t) ∨
    ∃ line u, fetchAndExecute (applyEvents s.turnInput.before (beginTurn s)) = .next u ∧ u.psw.uc = true ∧
      EntersBy (.interrupt line) u.pc s t := by
  obtain ⟨hpsw, -, -, hpc⟩ := atFetch_frame s
  obtain ⟨hreset, -⟩ | ⟨-, u, hexec, rfl⟩ := step_cases h
  · simp [hr] at hreset
  · obtain ⟨hafter, -⟩ := applyEvents_frame s.turnInput.after u
    obtain hkept | ⟨c, hc, henters⟩ := fetchAndExecute_keepsPswOrFaults_of_user (by rw [hpsw, hu]) hexec
    · have hu' : u.psw = s.psw := hkept.trans hpsw
      obtain ⟨hsame, -⟩ | ⟨-, i, -, haccept⟩ := interruptTest_cases (applyEvents s.turnInput.after u)
      · simp [hsame, hafter.psw, hu', hu] at hk
      · refine .inr ⟨BitVec.ofNat 4 i, u, hexec, by rw [hu', hu], ?_⟩
        rw [haccept, hafter.pc]
        exact entersBy_raise (t := (applyEvents s.turnInput.after u).drawn 1) (hafter.psw.trans hu') _ _
    · have hdone := henters.of_sameCore hafter
      rw [hdone.interruptTest]
      refine .inl ⟨c, hc, by rw [hdone.psw, hpsw], by rw [hdone.pc, hpsw], hdone.bad, ?_⟩
      rw [hdone.link, hpc]

/-- The fields of the PSW and the pc after an acceptance in User Mode, in the spec's words (R290, R291). -/
theorem EntersBy.stated {c : Cause} {ret : Word} {s t : State} (h : EntersBy c ret s t) (hu : s.psw.uc = true) :
    (t.psw.up = true ∧ t.psw.uo = s.psw.up ∧ t.psw.ic = false ∧ t.psw.ip = s.psw.ic ∧ t.psw.io = s.psw.ip) ∧
      t.psw.eid.toNat = eidNumber c ∧ t.pc = (if s.psw.v then 0xC0000000#32 else 0xE0000000#32) + serviceOffset c := by
  rw [h.psw, h.pc, serviceOffset_eq]
  exact ⟨⟨hu, rfl, rfl, rfl, rfl⟩, Cause.toNat_eid c, rfl⟩

/-- Settles O52: the turn's exception is a fault with the pc that the turn began with, or an interrupt with the pc that
the instruction left. -/
theorem kernelModeIsEnteredOnlyByAnException : Obligations.KernelModeIsEnteredOnlyByAnException := by
  intro s t hu hr h hk
  obtain ⟨c, hc, henters⟩ | ⟨line, u, hexec, hmode, henters⟩ := step_entersBy hu hr h hk
  · obtain ⟨⟨hup, huo, hic, hip, hio⟩, heid, hpc⟩ := henters.stated hu
    exact ⟨hup, huo, hic, hip, hio, c, heid, henters.bad, hpc, fun _ => henters.link,
      fun line heq => absurd heq (hc line)⟩
  · obtain ⟨⟨hup, huo, hic, hip, hio⟩, heid, hpc⟩ := henters.stated hu
    exact ⟨hup, huo, hic, hip, hio, .interrupt line, heid, henters.bad, hpc, fun hne => absurd rfl (hne line),
      fun _ _ => ⟨u, hexec, hmode, henters.link⟩⟩

end Sys2Proof.Machine

/-! SUPPORT. The devices of the demonstration project: which word an address of a device's window selects, the fields of the
words they answer, what their events do, and their interrupt lines (spec 60_exceptions.md R320 to R341). -/

namespace Sys2Proof.Machine

/-! ## Addresses (R94, R105) -/

/-- The word of index k in a device's window of the peripheral range is selected by its address (R64, R94). -/
theorem HasDevice.select {cfg : Config} {kind : DeviceKind} {base k : Nat} {pa : Word} {r : DevReg}
    (h : HasDevice cfg kind base) (hbase : 0x30000000 ≤ base ∧ base ≤ 0x3FF00000) (hk : k < 0x40000)
    (hpa : pa.toNat = base + 4 * k) (hr : kindReg kind cfg.devHoles k = some r) : select cfg pa = .device r := by
  have hindex : (pa.toNat - base) / 4 = k := by omega
  refine select_of_hasDevice h ?_ ?_ ?_ ?_ (hindex ▸ hr)
  all_goals omega

/-- A word inside a device's list is found without the parameter dev_holes (D23). -/
theorem localIndex_of_lt {size k : Nat} (h : DevHoles) (hk : k < size) : localIndex h size k = some k := by
  simp [localIndex, hk]

/-- A two-bit control register holds the interrupt enable in bit 1 and the event flag in bit 0 (R321). -/
theorem getLsbD_controlWord (n : Nat) (enable flag : Bool) :
    (controlWord n enable flag).getLsbD 1 = enable ∧ (controlWord n enable flag).getLsbD 0 = flag := by
  simp only [controlWord, BitVec.getLsbD_append]
  simp

/-! ## The timer (R330, R331) -/

/-- Fewer clock cycles than the counter holds lower it by as many. -/
theorem Timer.clocks_of_lt {t : Timer} {k : Nat} (hk : k < t.counter.toNat) :
    ∃ c : Word, c.toNat = t.counter.toNat - k ∧ t.clocks k = { t with counter := c } := by
  induction k with
  | zero => exact ⟨t.counter, rfl, rfl⟩
  | succ k ih =>
    obtain ⟨c, hc, hclocks⟩ := ih (by omega)
    have hrunning : ¬ c.toNat ≤ 1 := by omega
    refine ⟨c - 1, by bv_omega, ?_⟩
    simp only [Timer.clocks, hclocks, Timer.clock, hrunning, if_false]

/-- As many clock cycles as the counter holds reload the divisor and set the wrap-around flag. -/
theorem Timer.clocks_counter {t : Timer} (h : 0 < t.counter.toNat) :
    t.clocks t.counter.toNat = { t with counter := t.divisor, wrap := true } := by
  obtain ⟨k, hk⟩ := Nat.exists_eq_succ_of_ne_zero h.ne'
  obtain ⟨c, hc, hclocks⟩ := Timer.clocks_of_lt (t := t) (k := k) (by omega)
  have hlast : c.toNat ≤ 1 := by omega
  simp only [hk, Nat.succ_eq_add_one, Timer.clocks, hclocks, Timer.clock, hlast, if_true]

/-- Settles O54: the two words of the timer, and the count by induction on the clock cycles. -/
theorem timerRegistersReadAndWrite : Obligations.TimerRegistersReadAndWrite := by
  intro s v h
  have hcontrol : select s.cfg 0x30000000 = .device .timerControl := h.select (k := 0) (by decide) (by decide) rfl rfl
  have hdivisor : select s.cfg 0x30000004 = .device .timerDivisor := h.select (k := 1) (by decide) (by decide) rfl rfl
  refine ⟨⟨_, deviceReads_of_select hcontrol, getLsbD_controlWord _ _ _⟩, deviceWrites_of_select v hcontrol,
    deviceReads_of_select hdivisor, ⟨_, deviceWrites_of_select v hdivisor⟩, fun n k hk => ?_, fun n k hpos hk => ?_⟩
  · obtain ⟨c, hc, hclocks⟩ := Timer.clocks_of_lt hk
    exact ⟨c, hc, by rw [Devices.event, hclocks]⟩
  · subst hk
    rw [Devices.event, Timer.clocks_counter hpos]

/-! ## The keyboard (R333, R334) -/

/-- A byte that arrives with Ready reset is held as it is. -/
theorem arrived_of_not_ready (n : Nat) {ready : Bool} (h : ready = false) (code : Byte) : arrived n ready code = code := by
  simp [arrived, h]

/-- The byte of a data register lies in its bits 7..0, below a free value. -/
theorem extractLsb'_data (free : BitVec 24) (b : Byte) : (free ++ b : Word).extractLsb' 0 8 = b :=
  BitVec.extractLsb'_append_eq_right

/-- Settles O55, by the two words of the keyboard. -/
theorem keyboardRegistersReadAndWrite : Obligations.KeyboardRegistersReadAndWrite := by
  intro s v code h
  have hcontrol : select s.cfg 0x30200000 = .device .keyboardControl := h.select (k := 0) (by decide) (by decide) rfl rfl
  have hdata : select s.cfg 0x30200004 = .device .keyboardData := h.select (k := 1) (by decide) (by decide) rfl rfl
  refine ⟨⟨_, deviceReads_of_select hcontrol, getLsbD_controlWord _ _ _⟩, deviceWrites_of_select v hcontrol,
    ⟨_, deviceReads_of_select hdata, extractLsb'_data _ _⟩, fun hready n => ?_⟩
  rw [Devices.event, arrived_of_not_ready n hready]

/-! ## The serial lines (R335, R336) -/

/-- The four words of each serial line (R335). -/
theorem select_terminal {cfg : Config} (h : HasDevice cfg .terminal 0x30300000) (second : Bool) :
    let base : Word := if second then 0x30300010 else 0x30300000
    select cfg base = .device (.receiverControl second) ∧ select cfg (base + 4) = .device (.receiverData second) ∧
      select cfg (base + 8) = .device (.senderControl second) ∧
      select cfg (base + 12) = .device (.senderData second) := by
  cases second with
  | false =>
    exact ⟨h.select (k := 0) (by decide) (by decide) rfl rfl, h.select (k := 1) (by decide) (by decide) rfl rfl,
      h.select (k := 2) (by decide) (by decide) rfl rfl, h.select (k := 3) (by decide) (by decide) rfl rfl⟩
  | true =>
    exact ⟨h.select (k := 4) (by decide) (by decide) rfl rfl, h.select (k := 5) (by decide) (by decide) rfl rfl,
      h.select (k := 6) (by decide) (by decide) rfl rfl, h.select (k := 7) (by decide) (by decide) rfl rfl⟩

/-- Settles O56, by the four words of the line. -/
theorem terminalRegistersReadAndWrite : Obligations.TerminalRegistersReadAndWrite := by
  intro s v second char h
  obtain ⟨hrcvControl, hrcvData, hsndControl, hsndData⟩ := select_terminal h second
  refine ⟨⟨_, deviceReads_of_select hrcvControl, getLsbD_controlWord _ _ _⟩,
    ⟨_, deviceReads_of_select hrcvData, extractLsb'_data _ _⟩,
    ⟨_, deviceReads_of_select hsndControl, getLsbD_controlWord _ _ _⟩,
    deviceWrites_of_select v hrcvControl, deviceWrites_of_select v hsndControl, deviceWrites_of_select v hsndData,
    fun hready n => ?_, fun _ => rfl⟩
  rw [Devices.event, arrived_of_not_ready n hready]

/-! ## The display (R332) -/

/-- The display's words are its cells in the order of lines and columns (R332, C15). -/
theorem select_displayCell {cfg : Config} (h : HasDevice cfg .display 0x30100000) {pa : Word} {k : Nat} (hk : k < 4096)
    (hpa : pa.toNat = 0x30100000 + 4 * k) : select cfg pa = .device (.displayCell k) := by
  refine h.select (by decide) (by omega) hpa ?_
  rw [kindReg, displayReg, localIndex_of_lt _ hk]
  rfl

/-- Settles O57: a write of one cell of the canonical display memory leaves the others alone. -/
theorem displayCellsAreKept : Obligations.DisplayCellsAreKept := by
  intro s l c pa v h hwf hl hc hpa
  have hcell := select_displayCell h (k := 128 * l + c) (by omega) hpa
  obtain ⟨hdisplay, -⟩ := (Devices.wf_iff s.dev).1 hwf
  exact ⟨⟨_, deviceReads_of_select hcell, BitVec.extractLsb'_append_eq_right⟩,
    _, deviceWrites_of_select v hcell, rfl, fun k => Cells.get_put _ k _ hdisplay⟩

/-! ## The disk's registers and its buffer (R337, R338, R341) -/

/-- The bits of the disk control register (R338): START reads 0. -/
theorem Disk.getLsbD_controlWord (n : Nat) (k : Disk) :
    (k.controlWord n).getLsbD 31 = k.dmarq ∧ (k.controlWord n).getLsbD 5 = k.init ∧ (k.controlWord n).getLsbD 4 = k.fin ∧
      (k.controlWord n).getLsbD 3 = k.err ∧ (k.controlWord n).getLsbD 2 = k.wr ∧ (k.controlWord n).getLsbD 1 = k.ien ∧
      (k.controlWord n).getLsbD 0 = false := by
  simp only [Disk.controlWord, BitVec.getLsbD_append]
  simp

/-- The disk's four registers (R337). -/
theorem select_diskRegisters {cfg : Config} (h : HasDevice cfg .disk 0x30400000) :
    select cfg 0x30400000 = .device .diskControl ∧ select cfg 0x30400004 = .device .diskCount ∧
      select cfg 0x30400008 = .device .diskSector ∧ select cfg 0x3040000C = .device .diskCapacity :=
  ⟨h.select (k := 0) (by decide) (by decide) rfl rfl, h.select (k := 1) (by decide) (by decide) rfl rfl,
    h.select (k := 2) (by decide) (by decide) rfl rfl, h.select (k := 3) (by decide) (by decide) rfl rfl⟩

/-- The words of the upper half of the disk's window are those of the buffer, repeated every 4096 bytes (R68, R337). -/
theorem select_diskBuffer {cfg : Config} (h : HasDevice cfg .disk 0x30400000) {pa : Word} (hlow : 0x30480000 ≤ pa.toNat)
    (hhigh : pa.toNat < 0x30500000) (haligned : pa.toNat % 4 = 0) : select cfg pa = .device (.diskBuffer (pa.toNat % 4096 / 4)) := by
  have hupper : 0x20000 ≤ (pa.toNat - 0x30400000) / 4 := by omega
  have hindex : (pa.toNat - 0x30400000) / 4 % 1024 = pa.toNat % 4096 / 4 := by omega
  refine h.select (k := (pa.toNat - 0x30400000) / 4) (by decide) (by omega) (by omega) ?_
  rw [kindReg, diskReg, if_pos hupper, hindex]

/-- The bytes of a word of a storage, the one at the lowest address first (R9, R66). -/
theorem Cells.extractLsb'_word (m : Cells 8) (a : Nat) :
    (m.word a).extractLsb' 24 8 = m.get a ∧ (m.word a).extractLsb' 16 8 = m.get (a + 1) ∧
      (m.word a).extractLsb' 8 8 = m.get (a + 2) ∧ (m.word a).extractLsb' 0 8 = m.get (a + 3) := by
  refine ⟨?_, ?_, ?_, ?_⟩
  all_goals
    ext i hi
    simp only [Cells.word, BitVec.getElem_extractLsb', BitVec.getLsbD_append]
    grind

/-- The registers of an initialized disk read back (R338, R340). -/
theorem Devices.read_diskRegisters {d : Devices} (hinit : d.disk.init = true) (cfg : Config) (n : Nat) :
    d.read cfg .diskCount n = (d.disk.count, d) ∧ d.read cfg .diskSector n = (d.disk.sector, d) ∧
      d.read cfg .diskCapacity n = (cfg.diskCapacity, d) := by
  simp [Devices.read, hinit]

/-- The capacity of an initialized disk ignores writes (R340). -/
theorem Devices.write_diskCapacity {d : Devices} (hinit : d.disk.init = true) (v : Word) (n : Nat) :
    d.write .diskCapacity v n = d := by
  simp [Devices.write, hinit]

/-- Writes of the disk's registers while no action is in progress (R338, R339). -/
theorem Devices.write_diskRegisters_of_idle {d : Devices} (hinit : d.disk.init = true) (hidle : d.disk.busy = false)
    (v : Word) (n : Nat) :
    d.write .diskControl v n = { d with disk := { d.disk with
      fin := v.getLsbD 4, wr := v.getLsbD 2, ien := v.getLsbD 1, busy := v.getLsbD 0, again := false } } ∧
    d.write .diskCount v n = { d with disk := { d.disk with count := v } } ∧
    d.write .diskSector v n = { d with disk := { d.disk with sector := v } } := by
  simp [Devices.write, Disk.writeControl, hinit, hidle]

/-- Writes of the disk's registers during an action: WR, count and sector stay (R339). -/
theorem Devices.write_diskRegisters_of_busy {d : Devices} (hinit : d.disk.init = true) (hbusy : d.disk.busy = true)
    (v : Word) (n : Nat) :
    d.write .diskControl v n = { d with disk := { d.disk with
      fin := v.getLsbD 4, ien := v.getLsbD 1, again := d.disk.again || v.getLsbD 0 } } ∧
    d.write .diskCount v n = d ∧ d.write .diskSector v n = d := by
  simp [Devices.write, Disk.writeControl, hinit, hbusy]

/-- The buffer of an initialized disk without an action is storage (R341). -/
theorem Devices.diskBuffer_of_idle {d : Devices} (hinit : d.disk.init = true) (hidle : d.disk.busy = false)
    (cfg : Config) (k : Nat) (v : Word) (n : Nat) :
    d.read cfg (.diskBuffer k) n = (d.disk.buffer.word (4 * k), d) ∧
      d.write (.diskBuffer k) v n = { d with disk := { d.disk with buffer := d.disk.buffer.putWord (4 * k) v } } := by
  simp [Devices.read, Devices.write, hinit, hidle]

theorem deviceReads_of_read {s : State} {pa v : Word} {r : DevReg} {d : Devices} (hs : select s.cfg pa = .device r)
    (h : s.dev.read s.cfg r s.draws = (v, d)) : DeviceReads s pa v d := by
  have hread := deviceReads_of_select hs
  rwa [h] at hread

theorem deviceWrites_of_write {s : State} {pa v : Word} {r : DevReg} {d : Devices} (hs : select s.cfg pa = .device r)
    (h : s.dev.write r v s.draws = d) : DeviceWrites s pa v d :=
  h ▸ deviceWrites_of_select v hs

/-- Settles O58: each access is that of the word selected, by the state of the disk. -/
theorem diskRegistersReadAndWrite : Obligations.DiskRegistersReadAndWrite := by
  intro s v h
  obtain ⟨hcontrol, hcount, hsector, hcapacity⟩ := select_diskRegisters h
  refine ⟨⟨_, deviceReads_of_select hcontrol, Disk.getLsbD_controlWord _ _⟩, fun hinit => ?registers, fun _ => rfl,
    fun hinit hidle pa hlow hhigh haligned => ?buffer⟩
  case registers =>
    obtain ⟨hreadCount, hreadSector, hreadCapacity⟩ := Devices.read_diskRegisters hinit s.cfg s.draws
    refine ⟨deviceReads_of_read hcount hreadCount, deviceReads_of_read hsector hreadSector,
      deviceReads_of_read hcapacity hreadCapacity,
      deviceWrites_of_write hcapacity (Devices.write_diskCapacity hinit v s.draws), fun hidle => ?_, fun hbusy => ?_⟩
    · obtain ⟨hwControl, hwCount, hwSector⟩ := Devices.write_diskRegisters_of_idle hinit hidle v s.draws
      exact ⟨deviceWrites_of_write hcontrol hwControl, deviceWrites_of_write hcount hwCount,
        deviceWrites_of_write hsector hwSector⟩
    · obtain ⟨hwControl, hwCount, hwSector⟩ := Devices.write_diskRegisters_of_busy hinit hbusy v s.draws
      exact ⟨deviceWrites_of_write hcount hwCount, deviceWrites_of_write hsector hwSector,
        deviceWrites_of_write hcontrol hwControl⟩
  case buffer =>
    have hbuffer := select_diskBuffer h hlow hhigh haligned
    obtain ⟨hread, hwrite⟩ := Devices.diskBuffer_of_idle hinit hidle s.cfg (pa.toNat % 4096 / 4) v s.draws
    have haddress : 4 * (pa.toNat % 4096 / 4) = pa.toNat % 4096 := by omega
    rw [haddress] at hread hwrite
    refine ⟨⟨_, deviceReads_of_read hbuffer hread, Cells.extractLsb'_word _ _⟩, fun hwf => ?_⟩
    obtain ⟨-, -, hcanonical, -⟩ := (Devices.wf_iff s.dev).1 hwf
    refine ⟨_, deviceWrites_of_write hbuffer hwrite, fun k => ?_⟩
    rw [Cells.get_putWord _ _ _ hcanonical]
    grind

/-! ## The disk's actions (R339 to R341) -/

/-- What a byte reads after bytes of another storage are copied: those of the target's range come from the source. -/
theorem Cells.get_putBytes_bytes {m : Cells 8} (src : Cells 8) (a b n k : Nat) (hm : m.wf = true) :
    (m.putBytes a (src.bytes b n)).get k = if a ≤ k ∧ k < a + n then src.get (b + (k - a)) else m.get k := by
  simp [Cells.get_putBytes _ _ _ hm, Cells.bytes]

/-- The end of the action in progress changes the disk alone (R339). -/
theorem Devices.event_diskFinished {d : Devices} (hbusy : d.disk.busy = true) (cfg : Config) (failed : Bool) (n : Nat) :
    d.event cfg (.diskFinished failed) n = { d with disk := d.disk.finish cfg failed n } := by
  simp [Devices.event, hbusy]

/-- The end of an action sets FIN, and ERR as it went (R339). -/
theorem Disk.finish_flags (cfg : Config) (failed : Bool) (n : Nat) (k : Disk) :
    (k.finish cfg failed n).fin = true ∧ (k.finish cfg failed n).err = failed ∧
      (k.again = false → (k.finish cfg failed n).busy = false) ∧ (k.finish cfg failed n).again = false :=
  ⟨rfl, rfl, fun h => by simp [Disk.finish, h], rfl⟩

/-- An action without error, of at most 8 sectors and inside the disk, ends with its transfer made (R339 to R341). -/
theorem Disk.finish_storage_of_stated {cfg : Config} {k : Disk} (hcount : k.count.toNat ≤ 8)
    (hinside : k.sector.toNat + k.count.toNat ≤ cfg.diskCapacity.toNat) (n : Nat) :
    (k.finish cfg false n).buffer = k.transferred.buffer ∧ (k.finish cfg false n).medium = k.transferred.medium := by
  have hstated : k.transferStated cfg false = true := by simp [Disk.transferStated, hcount, hinside]
  simp [Disk.finish, hstated]

/-- A read of the disk fills the buffer from its start (R340, R341). -/
theorem Disk.transferred_of_read {k : Disk} (h : k.wr = false) : k.transferred = { k with
    buffer := k.buffer.putBytes 0 (k.medium.bytes (512 * k.sector.toNat) (512 * k.count.toNat)) } := by
  simp [Disk.transferred, h]

/-- A write of the disk takes the bytes from the start of the buffer (R340, R341). -/
theorem Disk.transferred_of_write {k : Disk} (h : k.wr = true) : k.transferred = { k with
    medium := k.medium.putBytes (512 * k.sector.toNat) (k.buffer.bytes 0 (512 * k.count.toNat)) } := by
  simp [Disk.transferred, h]

/-- Settles O59: the flags at the end of an action, and its transfer by the direction WR. -/
theorem diskActionsMoveSectors : Obligations.DiskActionsMoveSectors := by
  intro cfg d n hwf hbusy
  obtain ⟨-, -, hbuffer, -, hmedium⟩ := (Devices.wf_iff d).1 hwf
  simp only [Devices.event_diskFinished hbusy]
  obtain ⟨hfin, herr, -⟩ := Disk.finish_flags cfg true n d.disk
  refine ⟨hfin, herr, fun hcount hinside => ?_⟩
  obtain ⟨hfin, herr, hdone, hagain⟩ := Disk.finish_flags cfg false n d.disk
  obtain ⟨hb, hm⟩ := Disk.finish_storage_of_stated hcount hinside n
  refine ⟨_, rfl, hfin, herr, hdone, hagain, fun hwr => ?_, fun hwr => ?_⟩
  · rw [hb, hm, Disk.transferred_of_read hwr]
    refine ⟨rfl, fun k => ?_⟩
    simp [Cells.get_putBytes_bytes _ _ _ _ _ hbuffer]
  · rw [hb, hm, Disk.transferred_of_write hwr]
    refine ⟨rfl, fun k => ?_⟩
    simp [Cells.get_putBytes_bytes _ _ _ _ _ hmedium]

/-! ## The interrupt lines (R320) -/

/-- The demonstration platform drives its lines by devices alone (R320). -/
theorem State.irq_demo {s : State} (h : s.cfg = Config.demo) (i : Nat) : s.irq i = s.dev.line Config.demo i := by
  simp [State.irq, h, Config.demo]

@[simp] theorem Devices.terminal_false (d : Devices) : d.terminal false = d.term1 := rfl

@[simp] theorem Devices.terminal_true (d : Devices) : d.terminal true = d.term2 := rfl

/-- Settles O60: one case per entry of the platform's map, and one for the lines that are in no entry. -/
theorem interruptLinesFollowTheDevices : Obligations.InterruptLinesFollowTheDevices := by
  intro s i hcfg
  rw [State.irq_demo hcfg]
  split_ifs with h0 h1 h2 h3 h4 h8 h14
  case neg =>
    simp [Devices.line, Config.demo, Ne.symm h0, Ne.symm h1, Ne.symm h2, Ne.symm h3, Ne.symm h4, Ne.symm h8, Ne.symm h14]
  all_goals
    subst i
    simp [Devices.line, Config.demo, Devices.signal]

end Sys2Proof.Machine

/-! SUPPORT. The turn of the reset line, and the first instruction after reset (spec 70_reset_and_hazards.md R350 to
R356). -/

namespace Sys2Proof.Machine

/-! ## The reset line (R350, R351) -/

@[simp] theorem resetLine_pc (s : State) : (resetLine s).pc = 0xE0000000 := rfl

@[simp] theorem resetLine_psw (s : State) : (resetLine s).psw = Psw.reset := rfl

@[simp] theorem resetLine_disk_init (s : State) : (resetLine s).dev.disk.init = false := rfl

@[simp] theorem resetLine_bus (s : State) : (resetLine s).bus = s.bus := by
  simp only [resetLine]

/-- All 32 bits of the PSW are 0 after reset (R46). -/
@[simp] theorem Psw.toWord_reset : Psw.reset.toWord = 0#32 := by decide

/-- A turn with the reset line asserted resets a state that only the turn's events have touched, before and after (logs
19, 20): memory and configuration are as before, and no bus cycle is recorded. -/
theorem step_of_reset {s : State} (h : s.turnInput.reset = true) :
    ∃ u, step s = .next (resetLine u) ∧ u.mem = s.mem ∧ u.cfg = s.cfg ∧ u.bus = [] := by
  obtain ⟨hcore, hmem, hbus, -⟩ := applyEvents_frame s.turnInput.before (beginTurn s)
  obtain ⟨hcore', hmem', hbus', -⟩ :=
    applyEvents_frame s.turnInput.after (applyEvents s.turnInput.before (beginTurn s))
  exact ⟨_, by simp only [step, turn, h, if_true], hmem'.trans hmem, hcore'.cfg.trans hcore.cfg, hbus'.trans hbus⟩

/-- Settles O44: the reset sets pc, PSW and INIT, and neither it nor the events of its turn reach memory, configuration
or the bus. -/
theorem resetLineSetsTheResetState : Obligations.ResetLineSetsTheResetState := by
  intro s hr
  obtain ⟨u, hstep, hmem, hcfg, hbus⟩ := step_of_reset hr
  obtain ⟨hcfg', hmem'⟩ := resetLine_cfg_mem u
  refine ⟨resetLine u, hstep, resetLine_pc u, by simp, resetLine_disk_init u, fun a => ?_, hcfg'.trans hcfg,
    by simp [hbus]⟩
  rw [hmem', hmem]

/-! ## The first instruction after reset (R353, log 1) -/

/-- Where the next fetch passes its checks, a word is placed at the physical address that the fetch goes to (log 1). -/
theorem State.withFetchWord_of_goesTo {s : State} {pa : Word} (h : GoesTo s s.pc .word false pa) (w : Word) :
    s.withFetchWord 32 w.toNat = s.setMem (Cells.putWord s.mem pa.toNat w) := by
  have hword : BitVec.ofNat 32 (w.toNat % 2 ^ 32) = w := by
    rw [Nat.mod_eq_of_lt w.isLt, BitVec.ofNat_toNat, BitVec.setWidth_eq]
  simp only [State.withFetchWord, placeAtPc, fetchAddress, checkAccess_of_goesTo h, hword]

/-- After reset the fetch goes to the first word of the ROM, whatever memory holds (R353). -/
theorem reset_goesTo_rom (m : Memory) : GoesTo (State.reset.setMem m) 0xE0000000 .word false 0x20000000 :=
  ⟨by decide, nofun, .inl ⟨by decide, by decide⟩⟩

/-- The first word of the ROM answers after reset (R62, R105). -/
theorem reset_inMemory_rom (m : Memory) : InMemory (State.reset.setMem m) 0x20000000 :=
  .inr (by decide : inRom Config.demo (0x20000000#32).toNat = true)

/-- The fetch right after reset reads the first word of the ROM. -/
theorem fetch_reset (m : Memory) :
    fetch (State.reset.setMem m) =
      .done (Cells.word m 0x20000000) ((State.reset.setMem m).addCycle (readCycle 0x20000000 .word)) :=
  (memRead_of_goesTo (reset_goesTo_rom m)).trans (busRead_of_inMemory .word (reset_inMemory_rom m))

/-- After reset the script of inputs is empty, so that the first turn begins as reset left the machine. -/
theorem atFetch_reset (m : Memory) :
    State.reset.setMem m =
      applyEvents (State.reset.setMem m).turnInput.before (beginTurn (State.reset.setMem m)) := rfl

/-- Settles O46: the word placed in the empty ROM is the one that the first turn fetches. -/
theorem resetRunsTheFirstRomWord : Obligations.ResetRunsTheFirstRomWord := by
  rintro s w i hdecode rfl
  have hplaced : State.reset.withFetchWord 32 w.toNat = State.reset.setMem (Cells.putWord [] 0x20000000 w) :=
    State.withFetchWord_of_goesTo (reset_goesTo_rom []) w
  rw [hplaced]
  have hword : Cells.word (Cells.putWord [] 0x20000000 w) 0x20000000 = w := Cells.word_putWord _ w rfl
  have hfetched := fetch_reset (Cells.putWord [] 0x20000000 w)
  rw [hword] at hfetched
  exact ⟨hword, step_of_fetch_done rfl (atFetch_reset _) hfetched hdecode⟩

end Sys2Proof.Machine
